-- ==== Sys2Proof/Word.lean ====
section
/-!
DEFINITION. The word types of the block (00_scope.md R6, R9): every register and every byte on the wire has 8 bits, bit 7 the
most significant; a slave address has 7 bits.
-/

namespace Sys2Proof

/-- A register, or a byte on the wire (R9). -/
abbrev Byte := BitVec 8

/-- A 7-bit slave address (R6, `ADDR_WIDTH`). -/
abbrev SlaveAddr := BitVec 7

/-- The model's operation word: a format number and the bits the opcode table shows (Decode.lean, log 2). -/
abbrev OpWord := BitVec 16

end Sys2Proof
end

