-- ==== Sys2Proof/Syntax.lean ====
section
/-!
DEFINITION. The operations of the block (30_encoding.md R110), one constructor for each row of opcode_table.json in the
table's order, and the events that the agents deliver (00_scope.md R8, R12).
-/

namespace Sys2Proof

/-- The four deferred actions, named after their flags in `PEND` (10_state.md R40). -/
inductive PendAction where
  /-- `PEND.ASSERT`: run `DRIVE_INTERRUPTS`. -/
  | assert
  /-- `PEND.RESET`: run `RESET_INTERRUPTS`. -/
  | reset
  /-- `PEND.ADVANCE`: run `ADVANCE`. -/
  | advance
  /-- `PEND.CHECK`: run `CHECK_ALARMS`. -/
  | check
deriving DecidableEq, Repr, Inhabited

/-- One event for the block, delivered by one of the agents of R8. -/
inductive Input where
  /-- A start condition on the wire (R91). -/
  | start
  /-- A stop condition on the wire (R91). -/
  | stop
  /-- One clock pulse; `m` is the level that every device but this slave puts on the data line (R181). -/
  | slot (m : Bool)
  /-- The 16 Hz tick event (R160). -/
  | tick
  /-- A step of the deferred-work context (R165); the schedule may say which pending action it takes (R46). -/
  | drain (choice : Option PendAction)
  /-- Power-up with the strap at the given level (R260). -/
  | powerUp (addrSel : Bool)
deriving DecidableEq, Repr

/-- The operations (R110). Fields carry the bits that the table's pattern shows for the row, under the table's letters; which of
them a meaning reads is said at the meaning (log 3). -/
inductive Instr where
  /-- `START` (R182). -/
  | start
  /-- `STOP` (R183). -/
  | stop
  /-- `SLOT.IDLE` (R184): `m` the line level put by the master. -/
  | slotIdle (m : Bool)
  /-- `SLOT.ADDR` (R185): the pattern `aaaaaaad` as assembled so far, `d` the bit of this slot. -/
  | slotAddr (a : BitVec 7) (d : Bool)
  /-- `ADDR.ACK.W` (R187): address byte `a:0` that matched, `k` the level others put in the acknowledge slot. -/
  | addrAckW (a : SlaveAddr) (k : Bool)
  /-- `ADDR.ACK.R` (R187): address byte `a:1` that matched, `k` as above. -/
  | addrAckR (a : SlaveAddr) (k : Bool)
  /-- `ADDR.NACK` (R187): address byte `x:d` that did not match, `k` as above. -/
  | addrNack (x : SlaveAddr) (d k : Bool)
  /-- `RX.BIT` (R188): `m` the bit received. -/
  | rxBit (m : Bool)
  /-- `RX.OFFSET` (R211): the offset byte whose eighth bit arrives. -/
  | rxOffset (o : Byte)
  /-- `RX.DATA` (R212): the data byte whose eighth bit arrives. -/
  | rxData (d : Byte)
  /-- `RX.ACK` (R189): `k` the level others put in the slot. -/
  | rxAck (k : Bool)
  /-- `TX.BIT` (R190): `t` the level others put in the slot. -/
  | txBit (t : Bool)
  /-- `TX.MACK` (R191): the master's acknowledge. -/
  | txMack
  /-- `TX.MNACK` (R191): the master's not-acknowledge. -/
  | txMnack
  /-- `TICK` (R161): `t = tick + 1` selects the sub-effect (R105). -/
  | tick (t : BitVec 5)
  /-- `DRAIN` (R165): `PEND` as `CHECK ADVANCE RESET ASSERT` (R106). -/
  | drain (c a r t : Bool)
  /-- `DRIVE_INTERRUPTS` (R146). -/
  | driveInterrupts
  /-- `RESET_INTERRUPTS` (R148). -/
  | resetInterrupts
  /-- `ADVANCE` (R120). -/
  | advance
  /-- `CHECK_ALARMS` (R140). -/
  | checkAlarms
  /-- `RESET` (R260): `s` the strap `addr_sel`. -/
  | reset (s : Bool)
deriving DecidableEq, Repr

/-- The action that an engine operation is, for the four operations that only `DRAIN` runs (R110). -/
def Instr.action? : Instr → Option PendAction
  | .driveInterrupts => some .assert
  | .resetInterrupts => some .reset
  | .advance => some .advance
  | .checkAlarms => some .check
  | .start | .stop | .slotIdle _ | .slotAddr _ _ | .addrAckW _ _ | .addrAckR _ _ | .addrNack _ _ _ => none
  | .rxBit _ | .rxOffset _ | .rxData _ | .rxAck _ | .txBit _ | .txMack | .txMnack => none
  | .tick _ | .drain _ _ _ _ | .reset _ => none

/-- The engine operation that an action runs (R165). -/
def PendAction.instr : PendAction → Instr
  | .assert => .driveInterrupts
  | .reset => .resetInterrupts
  | .advance => .advance
  | .check => .checkAlarms

/-- Whether the operation is a step of the bus engine (R8, files 43 and 44). -/
def Instr.isBus : Instr → Bool
  | .start | .stop | .slotIdle _ | .slotAddr _ _ | .addrAckW _ _ | .addrAckR _ _ | .addrNack _ _ _ => true
  | .rxBit _ | .rxOffset _ | .rxData _ | .rxAck _ | .txBit _ | .txMack | .txMnack => true
  | .tick _ | .drain _ _ _ _ | .driveInterrupts | .resetInterrupts | .advance | .checkAlarms | .reset _ => false

end Sys2Proof
end

