-- ==== Sys2Proof/Config.lean ====
section
/-!
DEFINITION. The parameters of the block (00_scope.md R6, R7) and the free values (R11, `draw`). A parameter the spec leaves OPEN
and every draw is an uninterpreted constant: nothing is known of it, so what is proved holds for every value. A draw is applied to
the number of the draw, which State counts, so that each use is a fresh value.
-/

namespace Sys2Proof

/-- The two readings of the date rule (40_time_engine.md R127, R134). -/
inductive DateRollCompare where
  /-- Compare the stored date, then increment or roll: this hardware. -/
  | pre
  /-- Increment, then compare. -/
  | post
deriving DecidableEq, Repr

namespace Config

/-- `ADDR_A`, OPEN (R7, decision D5, log 4). -/
opaque addrA : SlaveAddr

/-- The distance from `ADDR_A` to `ADDR_B`, OPEN (log 4). -/
opaque addrGap : SlaveAddr

/-- `ADDR_B`: any 7-bit value different from `ADDR_A` (R7, D5, log 4). -/
def addrB : SlaveAddr := addrA + (if addrGap = 0 then 1 else addrGap)

/-- The strap `addr_sel` at the power-up before `State.reset`, OPEN (R7, R57, log 4). -/
opaque addrSel : Bool

/-- `LEAP_REFRESH_ON_YEAR_WRITE`, OPEN (R217, D20, log 5). -/
opaque leapRefreshOnYearWrite : Bool

/-- `DATE_ROLL_COMPARE = PRE` (R7, D19, log 18). -/
def dateRollCompare : DateRollCompare := .pre

/-- The byte that a load above offset 30 returns (R218, D8, log 6): argument, the number of the draw. -/
opaque loadByte : Nat → Byte

/-- `RF[0..7]` after an `ADVANCE` outside its domain (R132, D21, log 7): the number of the draw, the offset. -/
opaque advanceByte : Nat → Nat → Byte

/-- `is_leap` after an `ADVANCE` outside its domain (R132, D21, log 7). -/
opaque advanceLeap : Nat → Bool

/-- `PEND.CHECK` after an `ADVANCE` outside its domain (R132, D21, log 7). -/
opaque advanceCheck : Nat → Bool

/-- The weekday term of an alarm's day match when `RF[3]` is outside 1 to 7 (R142, D34, log 8): the number of the draw, the
alarm's index. -/
opaque weekdayBit : Nat → Nat → Bool

/-- Which action a `DRAIN` takes when several are pending and the schedule does not say (R166, D15, log 9). -/
opaque drainPick : Nat → PendAction

end Config

end Sys2Proof
end

