-- ==== Sys2Proof/WellFormed.lean ====
section
/-!
DEFINITION. Which operations the opcode table can show: the tick phase is 1 to 16 (30_encoding.md R105), and `DRAIN` is selected
only by a pending flag (R110). Every other field may hold any value of its type.
-/

namespace Sys2Proof

/-- The fields are values that the row's pattern can take. -/
def Instr.wellFormed : Instr → Bool
  | .tick t => decide (1 ≤ t.toNat) && decide (t.toNat ≤ 16)
  | .drain c a r t => c || a || r || t
  | .start | .stop | .slotIdle _ | .slotAddr _ _ | .addrAckW _ _ | .addrAckR _ _ | .addrNack _ _ _ => true
  | .rxBit _ | .rxOffset _ | .rxData _ | .rxAck _ | .txBit _ | .txMack | .txMnack => true
  | .driveInterrupts | .resetInterrupts | .advance | .checkAlarms | .reset _ => true

end Sys2Proof
end

