-- ==== Sys2Proof/Decode.lean ====
section
/-!
DEFINITION. Operation words, their decoder and their encoder. The hardware has no instruction words (30_encoding.md): an event and
the state select an operation, and opcode_table.json shows the selecting bits in formats whose patterns overlap. The model's
operation word puts the table's bits for the row in bits 8..0, bit 0 as the table numbers it, and the number of the table's
format in bits 15..12; bits 11..9 are 0. The format numbers are a DESIGN CHOICE (log 2). The word is stored low byte first.
-/

namespace Sys2Proof

/-- Why a word is no operation. -/
inductive Reject where
  /-- Fewer than two bytes. -/
  | truncated
  /-- A bit that the format does not use is set. -/
  | reservedBits
  /-- No format has this number. -/
  | noSuchFormat
  /-- The fixed pattern of no row: neither a start nor a stop condition (R91), nor one chosen action (R106). -/
  | noSuchPattern
  /-- The tick phase is not 1 to 16 (R105). -/
  | noSuchPhase
  /-- `DRAIN` with no flag pending is not enabled (R165). -/
  | nothingPending
deriving DecidableEq, Repr

/-! ## Formats -/

/-- The rows whose pattern is fixed and differs from the others': the wire conditions `START`, `STOP`, the master's acknowledge
`TX.MACK`, and `PEND` with the one action that `DRAIN` takes (rows `DRIVE_INTERRUPTS` to `CHECK_ALARMS`). -/
def fmtFixed : BitVec 4 := 0
/-- The row `TX.MNACK`, whose pattern is that of `DRIVE_INTERRUPTS`. -/
def fmtMnack : BitVec 4 := 1
/-- A slot while idle. -/
def fmtIdle : BitVec 4 := 2
/-- Address byte, data slots. -/
def fmtAddr : BitVec 4 := 3
/-- Address byte and acknowledge slot, the comparator of R186 reporting a match. -/
def fmtMatch : BitVec 4 := 4
/-- Address byte and acknowledge slot, no match. -/
def fmtMismatch : BitVec 4 := 5
/-- A data slot in ReceiverMode. -/
def fmtRxBit : BitVec 4 := 6
/-- The eighth data slot of the offset byte. -/
def fmtRxOffset : BitVec 4 := 7
/-- The eighth data slot of a data byte. -/
def fmtRxData : BitVec 4 := 8
/-- The acknowledge slot in ReceiverMode. -/
def fmtRxAck : BitVec 4 := 9
/-- A data slot in TransmitterMode. -/
def fmtTxBit : BitVec 4 := 10
/-- The tick phase `t`, five bits. -/
def fmtTick : BitVec 4 := 11
/-- `PEND` as four bits, the choice left open. -/
def fmtDrain : BitVec 4 := 12
/-- Power-up, the strap. -/
def fmtReset : BitVec 4 := 13

/-- The operation word of a format and its bits. -/
def pack (format : BitVec 4) (bits : BitVec 9) : OpWord := format ++ (0 : BitVec 3) ++ bits

/-- One bit in the place of bit 0. -/
def bitWord (b : Bool) : BitVec 9 := (BitVec.ofBool b).setWidth 9

/-- Four flags as bits 3..0 (R106: `CHECK ADVANCE RESET ASSERT`). -/
def flagWord (c a r t : Bool) : BitVec 9 :=
  (BitVec.ofBool c ++ BitVec.ofBool a ++ BitVec.ofBool r ++ BitVec.ofBool t).setWidth 9

/-- An address byte and its acknowledge slot, `aaaaaaadk` (R92, R93). -/
def frameWord (a : SlaveAddr) (d k : Bool) : BitVec 9 := a ++ BitVec.ofBool d ++ BitVec.ofBool k

/-! ## The decoder -/

/-- The low `n` bits of a pattern, provided that the bits above them are 0. -/
def narrow (n : Nat) (bits : BitVec 9) (k : BitVec n → Except Reject Instr) : Except Reject Instr :=
  if bits.toNat < 2 ^ n then k (bits.setWidth n) else .error .reservedBits

/-- A start condition is `1,1,0`, a stop condition `1,0,1` (R91), the master's acknowledge `0` (R191), and a chosen action one of
four flags (R106). -/
def decodeFixed (p : BitVec 4) : Except Reject Instr :=
  if p = 0b110#4 then .ok .start
  else if p = 0b101#4 then .ok .stop
  else if p = 0b0#4 then .ok .txMack
  else if p = 0b0001#4 then .ok .driveInterrupts
  else if p = 0b0010#4 then .ok .resetInterrupts
  else if p = 0b0100#4 then .ok .advance
  else if p = 0b1000#4 then .ok .checkAlarms
  else .error .noSuchPattern

/-- The master's not-acknowledge is `1` (R191). -/
def decodeMnack (p : BitVec 1) : Except Reject Instr := if p = 1 then .ok .txMnack else .error .noSuchPattern

/-- Address byte and acknowledge slot of an address that matched: the direction bit tells write from read (R108). -/
def decodeMatch (bits : BitVec 9) : Except Reject Instr :=
  if bits.getLsbD 1 then .ok (.addrAckR (bits.extractLsb' 2 7) (bits.getLsbD 0))
  else .ok (.addrAckW (bits.extractLsb' 2 7) (bits.getLsbD 0))

/-- The tick phase is 1 to 16 (R105). -/
def decodeTick (t : BitVec 5) : Except Reject Instr :=
  if 1 ≤ t.toNat ∧ t.toNat ≤ 16 then .ok (.tick t) else .error .noSuchPhase

/-- `PEND` with at least one flag (R165). -/
def decodeDrain (p : BitVec 4) : Except Reject Instr :=
  if p = 0 then .error .nothingPending
  else .ok (.drain (p.getLsbD 3) (p.getLsbD 2) (p.getLsbD 1) (p.getLsbD 0))

/-- The operation of a format and its nine bits. -/
def decodeFormat (format : BitVec 4) (bits : BitVec 9) : Except Reject Instr :=
  if format = fmtFixed then narrow 4 bits decodeFixed
  else if format = fmtMnack then narrow 1 bits decodeMnack
  else if format = fmtIdle then narrow 1 bits fun b => .ok (.slotIdle (b.getLsbD 0))
  else if format = fmtAddr then narrow 8 bits fun b => .ok (.slotAddr (b.extractLsb' 1 7) (b.getLsbD 0))
  else if format = fmtMatch then decodeMatch bits
  else if format = fmtMismatch then .ok (.addrNack (bits.extractLsb' 2 7) (bits.getLsbD 1) (bits.getLsbD 0))
  else if format = fmtRxBit then narrow 1 bits fun b => .ok (.rxBit (b.getLsbD 0))
  else if format = fmtRxOffset then narrow 8 bits fun b => .ok (.rxOffset b)
  else if format = fmtRxData then narrow 8 bits fun b => .ok (.rxData b)
  else if format = fmtRxAck then narrow 1 bits fun b => .ok (.rxAck (b.getLsbD 0))
  else if format = fmtTxBit then narrow 1 bits fun b => .ok (.txBit (b.getLsbD 0))
  else if format = fmtTick then narrow 5 bits decodeTick
  else if format = fmtDrain then narrow 4 bits decodeDrain
  else if format = fmtReset then narrow 1 bits fun b => .ok (.reset (b.getLsbD 0))
  else .error .noSuchFormat

/-- The operation of a word, or why there is none. -/
def decodeWord (w : OpWord) : Except Reject Instr :=
  if w.extractLsb' 9 3 = 0 then decodeFormat (w.extractLsb' 12 4) (w.extractLsb' 0 9)
  else .error .reservedBits

/-- The operation at the head of a list of bytes, low byte first, and the bytes after it. -/
def decode : List Byte → Except Reject (Instr × List Byte)
  | lo :: hi :: rest => (decodeWord (hi ++ lo)).map fun i => (i, rest)
  | [_] | [] => .error .truncated

/-! ## The encoder -/

/-- The operation word of an instruction, from the table's pattern for its row. -/
def encode : Instr → OpWord
  | .start => pack fmtFixed 0b110
  | .stop => pack fmtFixed 0b101
  | .slotIdle m => pack fmtIdle (bitWord m)
  | .slotAddr a d => pack fmtAddr ((a ++ BitVec.ofBool d).setWidth 9)
  | .addrAckW a k => pack fmtMatch (frameWord a false k)
  | .addrAckR a k => pack fmtMatch (frameWord a true k)
  | .addrNack x d k => pack fmtMismatch (frameWord x d k)
  | .rxBit m => pack fmtRxBit (bitWord m)
  | .rxOffset o => pack fmtRxOffset (o.setWidth 9)
  | .rxData d => pack fmtRxData (d.setWidth 9)
  | .rxAck k => pack fmtRxAck (bitWord k)
  | .txBit t => pack fmtTxBit (bitWord t)
  | .txMack => pack fmtFixed 0
  | .txMnack => pack fmtMnack 1
  | .tick t => pack fmtTick (t.setWidth 9)
  | .drain c a r t => pack fmtDrain (flagWord c a r t)
  | .driveInterrupts => pack fmtFixed (flagWord false false false true)
  | .resetInterrupts => pack fmtFixed (flagWord false false true false)
  | .advance => pack fmtFixed (flagWord false true false false)
  | .checkAlarms => pack fmtFixed (flagWord true false false false)
  | .reset s => pack fmtReset (bitWord s)

/-- The two bytes of an operation word, low byte first. -/
def wordBytes (w : OpWord) : List Byte := [w.extractLsb' 0 8, w.extractLsb' 8 8]

/-! ## The host's numbering -/

/-- The bytes of an instruction whose table bits are the low `nbits` of `w`; every bit above them is 0. -/
def tableBytes (nbits w : Nat) : List Byte :=
  (List.range (max 2 ((nbits + 7) / 8))).map fun i => BitVec.ofNat 8 ((w % 2 ^ nbits) / 2 ^ (8 * i))

/-- The instruction the decoder reads from the table's bits. -/
def decodeTableWord (nbits w : Nat) : Option Instr :=
  match decode (tableBytes nbits w) with
  | .ok (i, []) => some i
  | _ => none

end Sys2Proof
end

