-- ==== Sys2Proof/Machine/State.lean ====
section
/-!
DEFINITION. The state of the block (10_state.md R20 to R45), its outcomes, and the state after reset (R50 to R58). The last five
fields of State are the model's own: the schedule, the outputs of the last bus step, the count of draws and whether power-up has
happened (logs 1, 6, 15, 16, 17).
-/

namespace Sys2Proof.Machine

/-- The five states of the bus engine (43_bus_protocol.md R180). -/
inductive Phase where
  | idle
  | addressPhase
  | addressCheck
  | receiverMode
  | transmitterMode
deriving DecidableEq, Repr

/-- The eight data slots or the ninth slot, in the two loop states (10_state.md R42). -/
inductive Sub where
  | data
  | ack
deriving DecidableEq, Repr

/-- The protocol-local conditions (60_exceptions.md R230 to R233): labels of a bus step. -/
inductive Condition where
  /-- An address byte for another address (R231). -/
  | addressMismatch
  /-- The receive callback failed (R232). -/
  | writeRejected
  /-- A start condition outside `Idle` (R233). -/
  | protocolReset
deriving DecidableEq, Repr

/-- The pending-action flags `PEND` (10_state.md R40). -/
structure Pend where
  assert : Bool
  reset : Bool
  advance : Bool
  check : Bool
deriving DecidableEq, Repr

/-- The output lines `OUT` (10_state.md R41); `true` is asserted and high. -/
structure Out where
  /-- `OUT.SQW`. -/
  sqw : Bool
  /-- `OUT.INT`. -/
  int : Bool
  /-- `OUT.INT1` to `OUT.INT6`, line `k` at index `k - 1`. -/
  ded : Vector Bool 6
deriving DecidableEq, Repr

/-- What a slot puts on the wire (R180, R181): `drive` by the slave (`true` is released), `level` on the line. -/
structure BusOut where
  drive : Bool
  level : Bool
deriving DecidableEq, Repr

/-- The state of the block. -/
structure State where
  /-- The Register File, offsets 0 to 30 (R21). -/
  rf : Vector Byte 31
  /-- The leap cache (R38). -/
  isLeap : Bool
  /-- The tick counter between steps (R39). -/
  tick : Fin 16
  /-- The pending-action flags (R40). -/
  pend : Pend
  /-- The output lines (R41). -/
  out : Out
  /-- The bus engine's state (R42). -/
  phase : Phase
  /-- Data or acknowledge slots (R42). -/
  sub : Sub
  /-- Bits of the current byte already transferred (R42). -/
  bitcnt : Fin 8
  /-- The byte being assembled or sent (R42). -/
  shreg : Byte
  /-- The result of the last receive callback (R42). -/
  rxok : Bool
  /-- The register offset of the next transfer (R43). -/
  cursor : Byte
  /-- The active slave address (R44). -/
  ownAddr : SlaveAddr
  /-- The byte-count tracker (R45): 0, the next received byte is the offset. -/
  bytecnt : Fin 2
  /-- Model's own: the wire outputs of the last bus event, `none` when it was no slot. -/
  busOut : Option BusOut
  /-- Model's own: the condition that labels the last bus step. -/
  cond : Option Condition
  /-- Model's own: the number of the next draw. -/
  draws : Nat
  /-- Model's own: RESET has happened (R260). -/
  powered : Bool
  /-- Model's own: the events the agents will deliver, in order (R8, R46). -/
  inputs : List Input
deriving DecidableEq, Repr

/-- Faults: none. Nothing in this hardware is a fault or stuck (R200, R230; 93_implementation_defined.md, Part 1), so the type has
no constructor and no step can answer with one. -/
inductive Fault
deriving DecidableEq, Repr

/-- Refusals. -/
inductive Refusal where
  /-- Raised by `exec` for an operation without a meaning: there is none. Safe. -/
  | notModelled (mnemonic : String)
  /-- Raised by `step` when the word it formed is no operation. Never happens: every word the selection forms is an operation (R111:
  "No encoding traps"). Safe. -/
  | undecodable (why : Reject)
deriving DecidableEq, Repr

/-- The Register File after power-up: the epoch 2000-01-01, Saturday (R50), midnight and zeros elsewhere (R51, D17, log 14). -/
def rfReset : Vector Byte 31 :=
  #v[0x00, 0x00, 0x00, 0x06, 0x01, 0x01, 0x00, 0x20, 0x00, 0x00, 0x00, 0x00, 0x00, 0x00, 0x00, 0x00,
    0x00, 0x00, 0x00, 0x00, 0x00, 0x00, 0x00, 0x00, 0x00, 0x00, 0x00, 0x00, 0x00, 0x00, 0x00]

/-- The state after power-up with the strap at the given level (R50 to R58, R260). -/
def State.powerUp (addrSel : Bool) : State where
  rf := rfReset
  isLeap := false
  tick := 0
  pend := { assert := false, reset := false, advance := false, check := false }
  out := { sqw := false, int := false, ded := Vector.replicate 6 false }
  phase := .idle
  sub := .data
  bitcnt := 0
  shreg := 0x00
  rxok := true
  cursor := 0x00
  ownAddr := if addrSel then Config.addrB else Config.addrA
  bytecnt := 0
  busOut := none
  cond := none
  draws := 0
  powered := true
  inputs := []

/-- The machine right after reset (R58). The strap's level is OPEN (log 4). -/
def State.reset : State := State.powerUp Config.addrSel

end Sys2Proof.Machine
end

