-- ==== Sys2Proof/Machine/Operands.lean ====
section
/-!
DEFINITION. Operand assembly: BCD digits (00_scope.md R10, 40_time_engine.md R121), the time registers and their domain
(10_state.md R47), the alarm bytes (R30), bytes assembled from slots and address bytes (30_encoding.md R107 to R109).
-/

namespace Sys2Proof.Machine

/-! ## BCD -/

/-- `tens(b) = b[7:4]` (R10). -/
def tens (b : Byte) : Nat := b.toNat / 16

/-- `units(b) = b[3:0]` (R10). -/
def units (b : Byte) : Nat := b.toNat % 16

/-- `is_bcd(b)` (R10). -/
def isBcd (b : Byte) : Bool := decide (tens b ≤ 9) && decide (units b ≤ 9)

/-- `val(b)` (R10). -/
def val (b : Byte) : Nat := 10 * tens b + units b

/-- The byte with the given digits. -/
def ofDigits (t u : Nat) : Byte := BitVec.ofNat 8 (16 * t + u)

/-- `bcd(n)` (R10). -/
def bcd (n : Nat) : Byte := ofDigits (n / 10) (n % 10)

/-- `bcd_inc(b)`, the per-field carry rule (R121). -/
def bcdInc (b : Byte) : Byte :=
  if units b + 1 > 9 then ofDigits (tens b + 1) 0 else ofDigits (tens b) (units b + 1)

/-! ## The time and date registers -/

/-- `RF[0..7]` by name (10_state.md R22 to R29). -/
structure TimeRegs where
  sec : Byte
  min : Byte
  hour : Byte
  dow : Byte
  date : Byte
  month : Byte
  year : Byte
  century : Byte
deriving DecidableEq, Repr

/-- `RF[0..7]`. -/
def State.time (s : State) : TimeRegs :=
  { sec := s.rf[0], min := s.rf[1], hour := s.rf[2], dow := s.rf[3]
    date := s.rf[4], month := s.rf[5], year := s.rf[6], century := s.rf[7] }

/-- The Register File with `RF[0..7]` replaced. -/
def putTime (rf : Vector Byte 31) (t : TimeRegs) : Vector Byte 31 :=
  (((((((rf.set 0 t.sec).set 1 t.min).set 2 t.hour).set 3 t.dow).set 4 t.date).set 5 t.month).set 6 t.year).set 7 t.century

/-- `TimeInDomain` (R47). -/
def TimeRegs.inDomain (t : TimeRegs) : Bool :=
  isBcd t.sec && decide (val t.sec ≤ 59)
    && (isBcd t.min && decide (val t.min ≤ 59))
    && (isBcd t.hour && decide (val t.hour ≤ 23))
    && (decide (1 ≤ t.dow.toNat) && decide (t.dow.toNat ≤ 7))
    && (isBcd t.date && decide (1 ≤ val t.date) && decide (val t.date ≤ 32))
    && (isBcd t.month && decide (1 ≤ val t.month) && decide (val t.month ≤ 12))
    && isBcd t.year && isBcd t.century

/-- The four 30-day months (R27). -/
def is30DayMonth (mo : Byte) : Bool := mo == 0x04 || mo == 0x06 || mo == 0x09 || mo == 0x11

/-- The seven 31-day months (R27). -/
def is31DayMonth (mo : Byte) : Bool :=
  mo == 0x01 || mo == 0x03 || mo == 0x05 || mo == 0x07 || mo == 0x08 || mo == 0x10 || mo == 0x12

/-! ## The alarm bytes; alarm `k` of the spec has index `k - 1` -/

/-- `A_MIN(k)` (R30). -/
def State.alarmMin (s : State) (k : Fin 6) : Byte := s.rf[8 + 3 * k.val]'(by have := k.isLt; omega)

/-- `A_HOUR(k)` (R30). -/
def State.alarmHour (s : State) (k : Fin 6) : Byte := s.rf[9 + 3 * k.val]'(by have := k.isLt; omega)

/-- `A_DAY(k)` (R30). -/
def State.alarmDay (s : State) (k : Fin 6) : Byte := s.rf[10 + 3 * k.val]'(by have := k.isLt; omega)

/-! ## Bytes on the wire -/

/-- `((shreg << 1) | level)[7:0]` (R107). -/
def shiftIn (shreg : Byte) (level : Bool) : Byte := shreg.extractLsb' 0 7 ++ BitVec.ofBool level

/-- `addr = B[7:1]` (R108). -/
def addrOf (b : Byte) : SlaveAddr := b.extractLsb' 1 7

/-- `d = B[0]`: 1 is read (R93, R108). -/
def dirOf (b : Byte) : Bool := b.getLsbD 0

/-- `shreg[7 - bitcnt]`, the bit to send after `bitcnt` bits (R107). -/
def sendBit (shreg : Byte) (bitcnt : Fin 8) : Bool := shreg.getLsbD (7 - bitcnt.val)

end Sys2Proof.Machine
end

