-- ==== Sys2Proof/Machine/Flags.lean ====
section
/-!
DEFINITION. The flags: the pending-action flags (10_state.md R40, 30_encoding.md R106), the alarm match and the flag register
(41_alarm_interrupt.md R140 to R145), the keep mask (44_bus_register_access.md R215).
-/

namespace Sys2Proof.Machine

/-! ## `PEND` -/

/-- `PEND.X`. -/
def Pend.get (p : Pend) : PendAction → Bool
  | .assert => p.assert
  | .reset => p.reset
  | .advance => p.advance
  | .check => p.check

/-- `PEND.X <- v`. -/
def Pend.put (p : Pend) (x : PendAction) (v : Bool) : Pend :=
  match x with
  | .assert => { p with assert := v }
  | .reset => { p with reset := v }
  | .advance => { p with advance := v }
  | .check => { p with check := v }

/-- The pending actions in the reference order of R166. -/
def Pend.toList (p : Pend) : List PendAction := [.assert, .reset, .advance, .check].filter p.get

/-- Some action is pending: `DRAIN` is enabled (R165). -/
def Pend.any (p : Pend) : Bool := p.assert || p.reset || p.advance || p.check

/-! ## Alarms; alarm `k` of the spec has index `k - 1` -/

/-- `time_match(k)` (R141): the minute, and the hour plus 0x80 modulo 256. -/
def State.timeMatch (s : State) (k : Fin 6) : Bool :=
  s.rf[1] == s.alarmMin k && s.rf[2] + 0x80 == s.alarmHour k

/-- The weekday register holds a weekday (R142). -/
def State.weekdayValid (s : State) : Bool := decide (1 ≤ s.rf[3].toNat) && decide (s.rf[3].toNat ≤ 7)

/-- `day_match(k)` (R142): the match-any bit, or the bit of the weekday; outside 1 to 7 that bit is a draw (log 8). -/
def State.dayMatch (s : State) (k : Fin 6) : Bool :=
  (s.alarmDay k).getLsbD 7
    || (if s.weekdayValid then (s.alarmDay k).getLsbD (s.rf[3].toNat - 1) else Config.weekdayBit s.draws k.val)

/-- A full match of an alarm (R140). -/
def State.alarmMatch (s : State) (k : Fin 6) : Bool := s.timeMatch k && s.dayMatch k

/-- The byte with bit `k` set where `f k`; bits 6 and 7 are 0. -/
def maskOf (f : Fin 6 → Bool) : Byte :=
  BitVec.ofBool false ++ BitVec.ofBool false ++ BitVec.ofBool (f 5) ++ BitVec.ofBool (f 4) ++ BitVec.ofBool (f 3)
    ++ BitVec.ofBool (f 2) ++ BitVec.ofBool (f 1) ++ BitVec.ofBool (f 0)

/-- The firing alarms, `RF[30] & RF[29] & 0x3F` (R145, R146). -/
def State.firing (s : State) : Byte := s.rf[30] &&& s.rf[29] &&& 0x3F

/-- What a store to offset 30 leaves: the byte is a keep mask (R104, R215). -/
def keepMask (b flags : Byte) : Byte := b &&& flags

end Sys2Proof.Machine
end

