-- ==== Sys2Proof/Machine/TimeEngine.lean ====
section
/-!
DEFINITION. The Time Engine (40_time_engine.md R120 to R137): operation `ADVANCE` and its field steps.
-/

namespace Sys2Proof.Machine

/-- Increment, and compare the incremented value with the field's rollover constant (R122 to R130, D21): the new value and the
carry. -/
def rollStep (rollover first : Byte) (b : Byte) : Byte × Bool :=
  if bcdInc b = rollover then (first, true) else (bcdInc b, false)

/-- `sec_step` (R122). -/
def secStep (b : Byte) : Byte × Bool := rollStep 0x60 0x00 b

/-- `min_step` (R123). -/
def minStep (b : Byte) : Byte × Bool := rollStep 0x60 0x00 b

/-- `leap_test(y)` (R124). -/
def leapTest (y : Byte) : Bool :=
  if tens y % 2 = 1 then units y == 2 || units y == 6 else units y == 4 || units y == 8

/-- `hour_step` (R125). -/
def hourStep (b : Byte) : Byte × Bool := rollStep 0x24 0x00 b

/-- `dow_step` (R126). -/
def dowStep (w : Byte) : Byte := if w + 1 = 8 then 1 else w + 1

/-- The dates that meet the rollover constant of their month (R127). -/
def dateRolls (d mo : Byte) (leap : Bool) : Bool :=
  (d == 0x29 && mo == 0x02 && !leap) || (d == 0x30 && mo == 0x02)
    || (d == 0x31 && is30DayMonth mo) || (d == 0x32 && is31DayMonth mo)

/-- `date_step` (R127), or its other reading (R134) under `DATE_ROLL_COMPARE = POST`. -/
def dateStep (cmp : DateRollCompare) (d mo : Byte) (leap : Bool) : Byte × Bool :=
  match cmp with
  | .pre => if dateRolls d mo leap then (0x01, true) else (bcdInc d, false)
  | .post => if dateRolls (bcdInc d) mo leap then (0x01, true) else (bcdInc d, false)

/-- `month_step` (R128). -/
def monthStep (b : Byte) : Byte × Bool := rollStep 0x13 0x01 b

/-- `year_step` (R129). -/
def yearStep (b : Byte) : Byte × Bool := rollStep 0xA0 0x00 b

/-- `century_step` (R130): the carry is dropped. -/
def centuryStep (b : Byte) : Byte := (rollStep 0xA0 0x00 b).1

/-- A step that runs only on a carry (R120: "A field whose carry-in is 0 is not read and not written"). -/
def onCarry (c : Bool) (step : Byte → Byte × Bool) (b : Byte) : Byte × Bool := if c then step b else (b, false)

/-- What `ADVANCE` makes of `RF[0..7]` and the leap cache, and whether the seconds rolled. -/
structure Advanced where
  time : TimeRegs
  isLeap : Bool
  rolled : Bool
deriving DecidableEq, Repr

/-- The carry chain of `ADVANCE` (R120), in its domain. -/
def advanceTime (t : TimeRegs) (leap : Bool) : Advanced :=
  let sec := secStep t.sec
  let min := onCarry sec.2 minStep t.min
  let hour := onCarry min.2 hourStep t.hour
  let date := onCarry hour.2 (dateStep Config.dateRollCompare · t.month leap) t.date
  let month := onCarry date.2 monthStep t.month
  let year := onCarry month.2 yearStep t.year
  { time :=
      { sec := sec.1
        min := min.1
        hour := hour.1
        dow := if hour.2 then dowStep t.dow else t.dow
        date := date.1
        month := month.1
        year := year.1
        century := if year.2 then centuryStep t.century else t.century }
    isLeap := if month.2 then leapTest year.1 else leap
    rolled := sec.2 }

/-- The free values of an `ADVANCE` outside its domain (R132, log 7). -/
def freeTime (n : Nat) : TimeRegs :=
  { sec := Config.advanceByte n 0, min := Config.advanceByte n 1, hour := Config.advanceByte n 2, dow := Config.advanceByte n 3
    date := Config.advanceByte n 4, month := Config.advanceByte n 5, year := Config.advanceByte n 6
    century := Config.advanceByte n 7 }

/-- `ADVANCE` (R120): in the domain the carry chain and the request of an alarm check (R131); outside it `RF[0..7]`, `is_leap` and
`PEND.CHECK` are free (R132, D21). -/
def advance (s : State) : State :=
  if s.time.inDomain then
    let r := advanceTime s.time s.isLeap
    { s with rf := putTime s.rf r.time, isLeap := r.isLeap, pend := { s.pend with check := s.pend.check || r.rolled } }
  else
    { s with rf := putTime s.rf (freeTime s.draws), isLeap := Config.advanceLeap s.draws
             pend := { s.pend with check := Config.advanceCheck s.draws }, draws := s.draws + 1 }

/-- The meaning of `ADVANCE` (R120 to R132). `PEND.ADVANCE` is cleared by the `DRAIN` that runs it (R165, log 11). -/
def execAdvance (s : State) : Host.Outcome State Fault Refusal := .next (advance s)

end Sys2Proof.Machine
end

