-- ==== Sys2Proof/Machine/Ops.lean ====
section
/-!
DEFINITION. The shared operations of the bus engine: register access with the write policy (44_bus_register_access.md R210 to R220),
what a slot puts on the wire (43_bus_protocol.md R181), and taking a condition (60_exceptions.md R230 to R237).
-/

namespace Sys2Proof.Machine

/-! ## Register access -/

/-- One byte of the offset space as it stands: offsets 31 to 255 hold nothing (20_memory.md R62, R79). -/
def State.peek (s : State) (o : Byte) : Option Byte :=
  if h : o.toNat < 31 then some s.rf[o.toNat] else none

/-- `RF[o] <- v` for an offset that has a slot; without effect elsewhere. -/
def State.poke (s : State) (o : Byte) (v : Byte) : State :=
  if h : o.toNat < 31 then { s with rf := s.rf.set o.toNat v } else s

/-- The offsets at which a host store is kept unchanged (R213). -/
def storable (o : Byte) : Bool := decide (o.toNat ≤ 25) || o == 28 || o == 29

/-- `year_write_hook(o)` (R217), after the store. -/
def yearWriteHook (o : Byte) (s : State) : State :=
  if o = 6 ∧ Config.leapRefreshOnYearWrite then { s with isLeap := leapTest s.rf[6] } else s

/-- `MemWrite(o, 1, b)` with the write policy (R213 to R217). -/
def memWrite (o b : Byte) (s : State) : State :=
  if storable o then yearWriteHook o (s.poke o b)
  else if o = 30 then s.poke 30 (keepMask b s.rf[30])
  else s

/-- `MemRead(o, 1)` (R218): above offset 30 a fresh free byte (log 6). -/
def memRead (o : Byte) (s : State) : Byte × State :=
  match s.peek o with
  | some v => (v, s)
  | none => (Config.loadByte s.draws, { s with draws := s.draws + 1 })

/-! ## The callbacks (R197) -/

/-- `on_start()` (R210). -/
def onStart (s : State) : State := { s with bytecnt := 0 }

/-- `RX_POLICY` (R7, R220): the constant ok. -/
def rxPolicy (_b _o : Byte) : Bool := true

/-- `on_receive(b)` for the offset byte (R211). -/
def onReceiveOffset (b : Byte) (s : State) : Bool × State :=
  (rxPolicy b s.cursor, { s with cursor := b, bytecnt := 1 })

/-- The cursor after a byte has been transferred (R212, R219). -/
def advanceCursor (s : State) : State := { s with cursor := s.cursor + 1 }

/-- `on_receive(b)` for a data byte (R212). -/
def onReceiveData (b : Byte) (s : State) : Bool × State :=
  (rxPolicy b s.cursor, advanceCursor (memWrite s.cursor b s))

/-- `on_receive(b)` (R197): the first byte after a start is the offset. -/
def onReceive (b : Byte) (s : State) : Bool × State :=
  if s.bytecnt = 0 then onReceiveOffset b s else onReceiveData b s

/-- `on_transmit()` (R219). -/
def onTransmit (s : State) : Byte × State :=
  let r := memRead s.cursor s
  (r.1, advanceCursor r.2)

/-! ## The wire and the conditions -/

/-- The outputs of a slot: the slave drives `drive`, the others `m`, and the line is their AND (R181). A slot is no condition
unless its rule raises one. -/
def putSlot (m drive : Bool) (s : State) : State :=
  { s with busOut := some { drive := drive, level := m && drive }, cond := none }

/-- The outputs of a start or stop condition: the slave drives nothing outside slots (R192). -/
def noSlot (s : State) : State := { s with busOut := none, cond := none }

/-- `raise <Condition>` (R11, R230): it labels the step and has no other effect. -/
def raiseCondition (c : Condition) (s : State) : State := { s with cond := some c }

/-- A transaction aborted with a condition: `phase <- Idle` and nothing else (R231, R232, R237). -/
def abort (c : Condition) (s : State) : State := raiseCondition c { s with phase := .idle }

/-- The end of a received byte (R188): the byte stands in `shreg`, the callback's result in `rxok`, the acknowledge slot comes
next. -/
def finishByte (b : Byte) (r : Bool × State) : State :=
  { r.2 with shreg := b, rxok := r.1, sub := .ack, bitcnt := 0 }

/-- The next byte to send is fetched and its first data slot comes next (R187, R191). -/
def fetchByte (s : State) : State :=
  let r := onTransmit s
  { r.2 with shreg := r.1, sub := .data, bitcnt := 0 }

end Sys2Proof.Machine
end

