-- ==== Sys2Proof/Machine/BusProtocol.lean ====
section
/-!
DEFINITION. The Bus Protocol Engine (43_bus_protocol.md R180 to R201): start, stop and the slots, phase by phase. A meaning is the
effect of its row; which row an event and the state select is said in Select.lean (log 13).
-/

namespace Sys2Proof.Machine

/-- The effect of `START` (R182, R210): a fresh address phase. Outside `Idle` it is labelled `ProtocolReset` (R233). -/
def startTransaction (s : State) : State :=
  let s1 := { onStart (noSlot s) with phase := .addressPhase, bitcnt := 0, shreg := 0x00 }
  if s.phase = .idle then s1 else raiseCondition .protocolReset s1

/-- The meaning of `START` (R182). -/
def execStart (s : State) : Host.Outcome State Fault Refusal := .next (startTransaction s)

/-- The meaning of `STOP` (R183): `phase <- Idle` and nothing else. -/
def execStop (s : State) : Host.Outcome State Fault Refusal := .next { noSlot s with phase := .idle }

/-- The meaning of `SLOT.IDLE` (R184): the slave releases the line and ignores the bit. -/
def execSlotIdle (m : Bool) (s : State) : Host.Outcome State Fault Refusal := .next (putSlot m true s)

/-- The meaning of `SLOT.ADDR` (R185): one bit of the address byte is shifted in; the seven bits `a` stand in `shreg` already
(log 3). -/
def execSlotAddr (_a : BitVec 7) (d : Bool) (s : State) : Host.Outcome State Fault Refusal :=
  let s1 := { putSlot d true s with shreg := shiftIn s.shreg d }
  .next (if s.bitcnt = 7 then { s1 with phase := .addressCheck, bitcnt := 0 } else { s1 with bitcnt := s.bitcnt + 1 })

/-- The comparison of `AddressCheck` (R186). -/
def addrMatches (s : State) : Bool := addrOf s.shreg == s.ownAddr

/-- The meaning of `ADDR.ACK.W` (R186, R187): the slave acknowledges and receives. -/
def execAddrAckW (_a : SlaveAddr) (k : Bool) (s : State) : Host.Outcome State Fault Refusal :=
  .next { putSlot k false s with phase := .receiverMode, sub := .data, bitcnt := 0 }

/-- The meaning of `ADDR.ACK.R` (R186, R187): the slave acknowledges, fetches the first byte and transmits. -/
def execAddrAckR (_a : SlaveAddr) (k : Bool) (s : State) : Host.Outcome State Fault Refusal :=
  .next { fetchByte (putSlot k false s) with phase := .transmitterMode }

/-- The meaning of `ADDR.NACK` (R186, R187, R231): the slave releases the line and returns to `Idle`. -/
def execAddrNack (_x : SlaveAddr) (_d k : Bool) (s : State) : Host.Outcome State Fault Refusal :=
  .next (abort .addressMismatch (putSlot k true s))

/-- The meaning of `RX.BIT` (R188): one bit is shifted in; with the eighth the byte is delivered. -/
def execRxBit (m : Bool) (s : State) : Host.Outcome State Fault Refusal :=
  let b := shiftIn s.shreg m
  let s1 := putSlot m true s
  .next (if s.bitcnt = 7 then finishByte b (onReceive b s1) else { s1 with shreg := b, bitcnt := s.bitcnt + 1 })

/-- The meaning of `RX.ACK` (R189): the slave acknowledges the byte, or aborts when the callback rejected it. -/
def execRxAck (k : Bool) (s : State) : Host.Outcome State Fault Refusal :=
  let s1 := putSlot k (!s.rxok) s
  .next (if s.rxok then { s1 with sub := .data, bitcnt := 0 } else abort .writeRejected s1)

/-- The meaning of `TX.BIT` (R190): the slave drives the next bit of `shreg`. -/
def execTxBit (t : Bool) (s : State) : Host.Outcome State Fault Refusal :=
  let s1 := putSlot t (sendBit s.shreg s.bitcnt) s
  .next (if s.bitcnt = 7 then { s1 with sub := .ack, bitcnt := 0 } else { s1 with bitcnt := s.bitcnt + 1 })

/-- The meaning of `TX.MACK` (R191): the master acknowledges and the next byte is fetched. -/
def execTxMack (s : State) : Host.Outcome State Fault Refusal := .next (fetchByte (putSlot false true s))

/-- The meaning of `TX.MNACK` (R191): the master ends the transfer; nothing is fetched. -/
def execTxMnack (s : State) : Host.Outcome State Fault Refusal := .next { putSlot true true s with phase := .idle }

end Sys2Proof.Machine
end

