-- ==== Sys2Proof/Machine/Power.lean ====
section
/-!
DEFINITION. Power-up (70_reset_and_hazards.md R260 to R262): the row `RESET`.
-/

namespace Sys2Proof.Machine

/-- The meaning of `RESET` (R260, R58): the strap selects the address and every piece of state takes its reset value. What the
agents have yet to deliver, and the count of draws, are the model's own and stay (log 16). -/
def execReset (addrSel : Bool) (s : State) : Host.Outcome State Fault Refusal :=
  .next { State.powerUp addrSel with draws := s.draws, inputs := s.inputs }

end Sys2Proof.Machine
end

