-- ==== Sys2Proof/Machine/RegisterAccess.lean ====
section
/-!
DEFINITION. Whole received bytes (44_bus_register_access.md R211, R212): the rows `RX.OFFSET` and `RX.DATA`, which are the eighth data
slot of a byte received in ReceiverMode (30_encoding.md R110). The callback's effect is completed as that slot completes it
(43_bus_protocol.md R188, log 12).
-/

namespace Sys2Proof.Machine

/-- The meaning of `RX.OFFSET` (R211): the cursor is loaded. -/
def execRxOffset (o : Byte) (s : State) : Host.Outcome State Fault Refusal :=
  .next (finishByte o (onReceiveOffset o (putSlot (o.getLsbD 0) true s)))

/-- The meaning of `RX.DATA` (R212 to R217): the byte is stored under the write policy and the cursor advances. -/
def execRxData (d : Byte) (s : State) : Host.Outcome State Fault Refusal :=
  .next (finishByte d (onReceiveData d (putSlot (d.getLsbD 0) true s)))

end Sys2Proof.Machine
end

