-- ==== Sys2Proof/Machine/AlarmEngine.lean ====
section
/-!
DEFINITION. The Alarm and Interrupt Engine (41_alarm_interrupt.md R140 to R150): `CHECK_ALARMS`, `DRIVE_INTERRUPTS`,
`RESET_INTERRUPTS`. The flag of the action is cleared by the `DRAIN` that runs it (R165, log 11).
-/

namespace Sys2Proof.Machine

/-- `CHECK_ALARMS` (R140 to R143): sets the flag of every matching alarm and clears none. A weekday outside 1 to 7 uses one
draw (R142, log 8). -/
def checkAlarms (s : State) : State :=
  { s with rf := s.rf.set 30 (s.rf[30] ||| maskOf s.alarmMatch)
           draws := if s.weekdayValid then s.draws else s.draws + 1 }

/-- `DRIVE_INTERRUPTS` (R146): asserts the unison line when an alarm fires and, with `DED_EN`, the line of each firing alarm. -/
def driveInterrupts (s : State) : State :=
  let f := s.firing
  { s with out := { s.out with
      int := s.out.int || decide (f ≠ 0)
      ded := Vector.ofFn fun k => s.out.ded[k] || (s.rf[28].getLsbD 7 && f.getLsbD k.val) } }

/-- `RESET_INTERRUPTS` (R148): lowers the seven interrupt lines. -/
def resetInterrupts (s : State) : State :=
  { s with out := { s.out with int := false, ded := Vector.replicate 6 false } }

/-- The meaning of `CHECK_ALARMS` (R140). -/
def execCheckAlarms (s : State) : Host.Outcome State Fault Refusal := .next (checkAlarms s)

/-- The meaning of `DRIVE_INTERRUPTS` (R146, R147). -/
def execDriveInterrupts (s : State) : Host.Outcome State Fault Refusal := .next (driveInterrupts s)

/-- The meaning of `RESET_INTERRUPTS` (R148). -/
def execResetInterrupts (s : State) : Host.Outcome State Fault Refusal := .next (resetInterrupts s)

end Sys2Proof.Machine
end

