-- ==== Sys2Proof/Machine/Scheduler.lean ====
section
/-!
DEFINITION. The Tick Scheduler (42_tick_scheduler.md R160 to R170): `TICK` and `DRAIN`.
-/

namespace Sys2Proof.Machine

/-- The requests that `TICK` raises at phase `t` (R161); a flag already set stays set (R168). -/
def raiseRequests (t : Nat) (p : Pend) : Pend :=
  { p with assert := p.assert || decide (t = 2)
           reset := p.reset || decide (t = 6)
           advance := p.advance || decide (t = 12) }

/-- `TICK` (R161): the phase is the count after its increment, and 16 is stored as 0. -/
def tickStep (s : State) : State :=
  let t := s.tick.val + 1
  { s with pend := raiseRequests t s.pend
           out := { s.out with sqw := if t = 8 ∨ t = 16 then !s.out.sqw else s.out.sqw }
           tick := if h : t < 16 then ⟨t, h⟩ else 0 }

/-- The meaning of `TICK` (R161 to R164). It has no operands: the field is the phase `tick + 1` that the table shows (log 3). -/
def execTick (_t : BitVec 5) (s : State) : Host.Outcome State Fault Refusal := .next (tickStep s)

/-- The engine operation of a pending action (R165). -/
def runAction (x : PendAction) (s : State) : State :=
  match x with
  | .assert => driveInterrupts s
  | .reset => resetInterrupts s
  | .advance => advance s
  | .check => checkAlarms s

/-- `PEND.X <- 0` (R165). -/
def clearPend (x : PendAction) (s : State) : State := { s with pend := s.pend.put x false }

/-- One pending action run to completion, then its own flag cleared (R165). -/
def serve (x : PendAction) (s : State) : State := clearPend x (runAction x s)

/-- Which pending action runs when the schedule leaves it open (R166): any of them, so with several pending the choice is a
draw (log 9). -/
def pickAction (s : State) : Option (PendAction × State) :=
  match s.pend.toList with
  | [] => none
  | [x] => some (x, s)
  | x :: _ :: _ =>
    let p := Config.drainPick s.draws
    some (if s.pend.get p then p else x, { s with draws := s.draws + 1 })

/-- The meaning of `DRAIN` (R165, R166). With nothing pending it is not enabled and nothing happens (log 10). It has no operands:
the fields are the flags that the table shows (log 3). -/
def execDrain (_c _a _r _t : Bool) (s : State) : Host.Outcome State Fault Refusal :=
  match pickAction s with
  | some (x, s1) => .next (serve x s1)
  | none => .next s

end Sys2Proof.Machine
end

