-- ==== Sys2Proof/Machine/Dispatch.lean ====
section
/-!
DEFINITION. One arm for each operation (30_encoding.md R110).
-/

namespace Sys2Proof.Machine

def exec (i : Instr) (s : State) : Host.Outcome State Fault Refusal :=
  match i with
  | .start => Sys2Proof.Machine.execStart s
  | .stop => Sys2Proof.Machine.execStop s
  | .slotIdle m => Sys2Proof.Machine.execSlotIdle m s
  | .slotAddr a d => Sys2Proof.Machine.execSlotAddr a d s
  | .addrAckW a k => Sys2Proof.Machine.execAddrAckW a k s
  | .addrAckR a k => Sys2Proof.Machine.execAddrAckR a k s
  | .addrNack x d k => Sys2Proof.Machine.execAddrNack x d k s
  | .rxBit m => Sys2Proof.Machine.execRxBit m s
  | .rxOffset o => Sys2Proof.Machine.execRxOffset o s
  | .rxData d => Sys2Proof.Machine.execRxData d s
  | .rxAck k => Sys2Proof.Machine.execRxAck k s
  | .txBit t => Sys2Proof.Machine.execTxBit t s
  | .txMack => Sys2Proof.Machine.execTxMack s
  | .txMnack => Sys2Proof.Machine.execTxMnack s
  | .tick t => Sys2Proof.Machine.execTick t s
  | .drain c a r t => Sys2Proof.Machine.execDrain c a r t s
  | .driveInterrupts => Sys2Proof.Machine.execDriveInterrupts s
  | .resetInterrupts => Sys2Proof.Machine.execResetInterrupts s
  | .advance => Sys2Proof.Machine.execAdvance s
  | .checkAlarms => Sys2Proof.Machine.execCheckAlarms s
  | .reset v => Sys2Proof.Machine.execReset v s

end Sys2Proof.Machine
end

