-- ==== Sys2Proof/Machine/Select.lean ====
section
/-!
DEFINITION. How an operation comes to run: the next event of the schedule (00_scope.md R8), the operation word that the event and the
state select (30_encoding.md R110), what the step adds after an engine operation, and the state in which a given operation is the
selected one.
-/

namespace Sys2Proof.Machine

/-- The next event: the head of the schedule; when no agent has an event the deferred-work context runs if a flag is pending
(R165, log 10). -/
def nextInput (s : State) : Option (Input × State) :=
  match s.inputs with
  | e :: rest => some (e, { s with inputs := rest })
  | [] => if s.pend.any then some (.drain none, s) else none

/-- The operation word of a slot, by phase and sub-phase (R110, R184 to R191). -/
def slotWord (m : Bool) (s : State) : OpWord :=
  match s.phase, s.sub with
  | .idle, _ => pack fmtIdle (bitWord m)
  | .addressPhase, _ => pack fmtAddr ((shiftIn s.shreg m).setWidth 9)
  | .addressCheck, _ => pack (if addrMatches s then fmtMatch else fmtMismatch) (s.shreg ++ BitVec.ofBool m)
  | .receiverMode, .data =>
    if s.bitcnt = 7 then pack (if s.bytecnt = 0 then fmtRxOffset else fmtRxData) ((shiftIn s.shreg m).setWidth 9)
    else pack fmtRxBit (bitWord m)
  | .receiverMode, .ack => pack fmtRxAck (bitWord m)
  | .transmitterMode, .data => pack fmtTxBit (bitWord m)
  | .transmitterMode, .ack => if m then pack fmtMnack 1 else pack fmtFixed 0

/-- `PEND` with one action chosen (R106). -/
def chosenWord : PendAction → OpWord
  | .assert => pack fmtFixed (flagWord false false false true)
  | .reset => pack fmtFixed (flagWord false false true false)
  | .advance => pack fmtFixed (flagWord false true false false)
  | .check => pack fmtFixed (flagWord true false false false)

/-- The operation word that an event selects in a running block (R110); none where no operation is enabled: a `DRAIN` of an action
that is not pending (R165), and a second power-up (R260, log 16). -/
def runningWord (e : Input) (s : State) : Option OpWord :=
  match e with
  | .start => some (pack fmtFixed 0b110)
  | .stop => some (pack fmtFixed 0b101)
  | .slot m => some (slotWord m s)
  | .tick => some (pack fmtTick (BitVec.ofNat 9 (s.tick.val + 1)))
  | .drain none =>
    if s.pend.any then some (pack fmtDrain (flagWord s.pend.check s.pend.advance s.pend.reset s.pend.assert)) else none
  | .drain (some x) => if s.pend.get x then some (chosenWord x) else none
  | .powerUp _ => none

/-- Before power-up is complete the only operation is `RESET`; every other event is lost (R260, log 16). -/
def unpoweredWord (e : Input) : Option OpWord :=
  match e with
  | .powerUp v => some (pack fmtReset (bitWord v))
  | .start | .stop | .slot _ | .tick | .drain _ => none

/-- The operation word that an event selects, if it selects any. -/
def selectWord (e : Input) (s : State) : Option OpWord := if s.powered then runningWord e s else unpoweredWord e

/-- What the step adds to an operation: the `DRAIN` that ran an engine operation clears its flag (R165, log 11). -/
def afterExec (i : Instr) (s : State) : State :=
  match i.action? with
  | some x => clearPend x s
  | none => s

/-- The state with an event put first. -/
def deliver (e : Input) (s : State) : State := { s with powered := true, inputs := e :: s.inputs }

/-- The state in which the next step selects the given operation: its event is delivered next, and the fields that select it hold
what it needs (R110). -/
def present (i : Instr) (s : State) : State :=
  match i with
  | .start => deliver .start s
  | .stop => deliver .stop s
  | .slotIdle m => deliver (.slot m) { s with phase := .idle }
  | .slotAddr a d => deliver (.slot d) { s with phase := .addressPhase, shreg := a.setWidth 8 }
  | .addrAckW a k => deliver (.slot k) { s with phase := .addressCheck, shreg := a ++ BitVec.ofBool false, ownAddr := a }
  | .addrAckR a k => deliver (.slot k) { s with phase := .addressCheck, shreg := a ++ BitVec.ofBool true, ownAddr := a }
  | .addrNack x d k => deliver (.slot k) { s with phase := .addressCheck, shreg := x ++ BitVec.ofBool d, ownAddr := ~~~x }
  | .rxBit m => deliver (.slot m) { s with phase := .receiverMode, sub := .data, bitcnt := 0 }
  | .rxOffset o =>
    deliver (.slot (o.getLsbD 0))
      { s with phase := .receiverMode, sub := .data, bitcnt := 7, bytecnt := 0, shreg := o >>> 1 }
  | .rxData d =>
    deliver (.slot (d.getLsbD 0))
      { s with phase := .receiverMode, sub := .data, bitcnt := 7, bytecnt := 1, shreg := d >>> 1 }
  | .rxAck k => deliver (.slot k) { s with phase := .receiverMode, sub := .ack }
  | .txBit t => deliver (.slot t) { s with phase := .transmitterMode, sub := .data }
  | .txMack => deliver (.slot false) { s with phase := .transmitterMode, sub := .ack }
  | .txMnack => deliver (.slot true) { s with phase := .transmitterMode, sub := .ack }
  | .tick t => deliver .tick { s with tick := Fin.ofNat 16 (t.toNat - 1) }
  | .drain c a r t => deliver (.drain none) { s with pend := { assert := t, reset := r, advance := a, check := c } }
  | .driveInterrupts => deliver (.drain (some .assert)) { s with pend := s.pend.put .assert true }
  | .resetInterrupts => deliver (.drain (some .reset)) { s with pend := s.pend.put .reset true }
  | .advance => deliver (.drain (some .advance)) { s with pend := s.pend.put .advance true }
  | .checkAlarms => deliver (.drain (some .check)) { s with pend := s.pend.put .check true }
  | .reset v => { deliver (.powerUp v) s with powered := false }

end Sys2Proof.Machine
end

