-- ==== Sys2Proof/Machine/Step.lean ====
section
/-!
DEFINITION. One step of the block: the next event selects an operation word, the word is decoded, the operation is executed (00_scope.md
R8, 30_encoding.md R110). Also the state with a given operation presented to the next step.
-/

namespace Sys2Proof.Machine

/-- The outcome with its next state changed. -/
def mapNext (f : State → State) : Host.Outcome State Fault Refusal → Host.Outcome State Fault Refusal
  | .next s => .next (f s)
  | .fault r => .fault r
  | .refused r => .refused r

/-- A decoded word is executed; a word that is no operation is refused. -/
def runDecoded (d : Except Reject Instr) (s : State) : Host.Outcome State Fault Refusal :=
  match d with
  | .ok i => mapNext (afterExec i) (exec i s)
  | .error r => .refused (.undecodable r)

/-- What an event does: the operation it selects; an event that selects none is used up without effect (R165, R260, log 10). -/
def stepInput (e : Input) (s : State) : Host.Outcome State Fault Refusal :=
  match selectWord e s with
  | some w => runDecoded (decodeWord w) s
  | none => .next s

/-- One step. With no event due and nothing pending the state stays as it is (log 10). -/
def step (s : State) : Host.Outcome State Fault Refusal :=
  match nextInput s with
  | some (e, s1) => stepInput e s1
  | none => .next s

/-- The state in which the next step runs the operation with the given table bits; unchanged where they are no operation. -/
def State.withFetchWord (s : State) (nbits w : Nat) : State :=
  match decodeTableWord nbits w with
  | some i => present i s
  | none => s

end Sys2Proof.Machine
end

