-- ==== Sys2Proof/Safety.lean ====
section
/-!
DEFINITION. The terms in which claims about the block are made: what completes, what is invariant, the calendar, the transactions
on the wire, and what the host can see.
-/

namespace Sys2Proof.Machine

/-! ## Runs -/

/-- The outcome is a next state: neither a fault nor a refusal. -/
def Completes (o : Host.Outcome State Fault Refusal) : Prop := ∃ t, o = .next t

/-- `k` steps of the machine. -/
def runSteps (k : Nat) (s : State) : Host.Outcome State Fault Refusal := Host.Core.run Sys2Proof.core k s

/-! ## The operation map (30_encoding.md R110) -/

/-- The operation that a slot selects. -/
def slotOperation (m : Bool) (s : State) : Instr :=
  match s.phase, s.sub with
  | .idle, _ => .slotIdle m
  | .addressPhase, _ => .slotAddr (s.shreg.extractLsb' 0 7) m
  | .addressCheck, _ =>
    if addrOf s.shreg = s.ownAddr then (if dirOf s.shreg then .addrAckR s.ownAddr m else .addrAckW s.ownAddr m)
    else .addrNack (addrOf s.shreg) (dirOf s.shreg) m
  | .receiverMode, .data =>
    if s.bitcnt = 7 then (if s.bytecnt = 0 then .rxOffset (shiftIn s.shreg m) else .rxData (shiftIn s.shreg m)) else .rxBit m
  | .receiverMode, .ack => .rxAck m
  | .transmitterMode, .data => .txBit m
  | .transmitterMode, .ack => if m then .txMnack else .txMack

/-- The operation that an event selects, if it selects any (R110, R165, R260). -/
def operationOf (e : Input) (s : State) : Option Instr :=
  match e with
  | .powerUp v => if s.powered then none else some (.reset v)
  | .start => if s.powered then some .start else none
  | .stop => if s.powered then some .stop else none
  | .slot m => if s.powered then some (slotOperation m s) else none
  | .tick => if s.powered then some (.tick (BitVec.ofNat 5 (s.tick.val + 1))) else none
  | .drain none =>
    if s.powered && s.pend.any then some (.drain s.pend.check s.pend.advance s.pend.reset s.pend.assert) else none
  | .drain (some x) => if s.powered && s.pend.get x then some x.instr else none

/-! ## Invariants -/

/-- What no operation of the block ever breaks: offsets 26 and 27 and the two high flag bits keep their reset value 0 (10_state.md
R34, R37), the receive callback has not failed and `WriteRejected` has not been raised (R220, R232), and the active address is one
of the two provisioned ones (R44). -/
structure State.Sound (s : State) : Prop where
  unused26 : s.rf[26] = 0
  unused27 : s.rf[27] = 0
  flagBits : s.rf[30] &&& 0xC0 = 0
  received : s.rxok = true
  notRejected : s.cond ≠ some .writeRejected
  address : s.ownAddr = Config.addrA ∨ s.ownAddr = Config.addrB

/-- `maxdate(month, is_leap)` under `DATE_ROLL_COMPARE = PRE` (10_state.md R48). -/
def maxDate (mo : Byte) (leap : Bool) : Nat :=
  if mo = 0x02 then (if leap then 30 else 29) else if is30DayMonth mo then 31 else 32

/-- `CalendarReachable` (10_state.md R48). -/
def CalendarReachable (t : TimeRegs) (leap : Bool) : Prop := t.inDomain = true ∧ val t.date ≤ maxDate t.month leap

/-- The next step stores a byte at one of the offsets 0 to 7 (44_bus_register_access.md R212, R213). -/
def StoresTime (s : State) : Prop :=
  s.powered = true ∧ s.phase = .receiverMode ∧ s.sub = .data ∧ s.bitcnt = 7 ∧ s.bytecnt = 1 ∧ s.cursor.toNat ≤ 7
    ∧ ∃ m rest, s.inputs = .slot m :: rest

/-- The time of day in seconds, of registers in BCD. -/
def TimeRegs.secondOfDay (t : TimeRegs) : Nat := 3600 * val t.hour + 60 * val t.min + val t.sec

/-! ## Transactions on the wire (30_encoding.md R92 to R97) -/

/-- The eight data slots of a byte sent by the master, most significant bit first (R92, R196). -/
def byteSlots (b : Byte) : List Input :=
  [.slot (b.getLsbD 7), .slot (b.getLsbD 6), .slot (b.getLsbD 5), .slot (b.getLsbD 4),
    .slot (b.getLsbD 3), .slot (b.getLsbD 2), .slot (b.getLsbD 1), .slot (b.getLsbD 0)]

/-- A byte sent by the master and the acknowledge slot in which the master releases the line. -/
def byteFrame (b : Byte) : List Input := byteSlots b ++ [.slot true]

/-- The nine slots of a byte sent by the slave: the master releases the line and then acknowledges, or not. -/
def readFrame (more : Bool) : List Input := List.replicate 8 (.slot true) ++ [.slot (!more)]

/-- The address byte `(addr << 1) | d` (R93). -/
def addressByte (addr : SlaveAddr) (read : Bool) : Byte := addr ++ BitVec.ofBool read

/-- A write transaction `S W a o a b1 a ... bn a P` (R96, R113). -/
def writeTransaction (addr : SlaveAddr) (o : Byte) (bs : List Byte) : List Input :=
  .start :: byteFrame (addressByte addr false) ++ byteFrame o ++ bs.flatMap byteFrame ++ [.stop]

/-- A transaction addressed with the address byte `v`, followed by any slots. -/
def addressedSlots (v : Byte) (ms : List Bool) : List Input := .start :: byteFrame v ++ ms.map .slot

/-- A read transaction of `n + 1` bytes, `S R a <v1> A ... <vn+1> N P` (R97, R113). -/
def readTransaction (addr : SlaveAddr) (n : Nat) : List Input :=
  .start :: byteFrame (addressByte addr true) ++ (List.replicate n (readFrame true)).flatten ++ readFrame false ++ [.stop]

/-- The stores of a write transaction, byte by byte from an offset (44_bus_register_access.md R221). -/
def storeAll (o : Byte) (bs : List Byte) (s : State) : State :=
  match bs with
  | [] => s
  | b :: rest => storeAll (o + 1) rest (memWrite o b s)

/-! ## What the host can see -/

/-- Two states look the same from the bus: everything that bus steps read or the host observes agrees; the leap cache, the tick
counter and the pending flags may differ (60_exceptions.md R248, R253). -/
structure SameOnBus (s t : State) : Prop where
  rf : s.rf = t.rf
  phase : s.phase = t.phase
  sub : s.sub = t.sub
  bitcnt : s.bitcnt = t.bitcnt
  shreg : s.shreg = t.shreg
  rxok : s.rxok = t.rxok
  cursor : s.cursor = t.cursor
  ownAddr : s.ownAddr = t.ownAddr
  bytecnt : s.bytecnt = t.bytecnt
  busOut : s.busOut = t.busOut
  cond : s.cond = t.cond
  draws : s.draws = t.draws
  powered : s.powered = t.powered
  inputs : s.inputs = t.inputs

end Sys2Proof.Machine
end

