-- ==== Sys2Proof/Certificates/Slice0/Obligations.lean ====
section
/-!
DEFINITION. The statements for the provers, from the numbered rules of the specification.
-/

open Sys2Proof Sys2Proof.Machine

/-! ## Encoding and selection -/

/-- Decoding the bytes of an encoded operation gives it back, with every field at every value (R110; the formats are the model's
choice, log 2). -/
def Obligations.DecodeOfEncode : Prop :=
  ∀ i : Instr, i.wellFormed = true → ∀ rest : List Byte, decode (wordBytes (encode i) ++ rest) = .ok (i, rest)

/-- A word has one meaning: what decodes is well formed and encodes to the same word (log 2). -/
def Obligations.EncodeOfDecode : Prop :=
  ∀ (w : OpWord) (i : Instr), decodeWord w = .ok i → i.wellFormed = true ∧ encode i = w

/-- Words written out from the table's patterns: START `110`, an offset byte 0x1C, the choice of ADVANCE, tick phase 12. -/
def Obligations.TableWordsDecode : Prop :=
  decodeWord 0b0000000000000110#16 = .ok .start ∧ decodeWord 0b0111000000011100#16 = .ok (.rxOffset 0x1C)
    ∧ decodeWord 0b0000000000000100#16 = .ok .advance ∧ decodeWord 0b1011000000001100#16 = .ok (.tick 12)

/-- A step runs the decoded operation: it uses up the event, executes the operation that the event's word decodes to, and after an
engine operation clears its pending flag (R165). -/
def Obligations.StepRunsDecodedOperation : Prop :=
  ∀ (s : State) (e : Input) (rest : List Input) (w : OpWord) (i : Instr), s.inputs = e :: rest →
    selectWord e { s with inputs := rest } = some w → decodeWord w = .ok i →
    step s = mapNext (afterExec i) (exec i { s with inputs := rest })

/-- The operation map of R110: the word that an event and the state select decodes to the operation of the table, and no word is
formed where no operation is enabled. -/
def Obligations.SelectedWordIsTheTablesOperation : Prop :=
  ∀ (e : Input) (s : State), (selectWord e s).map decodeWord = (operationOf e s).map Except.ok
    ∧ ∀ i, operationOf e s = some i → i.wellFormed = true

/-- R200: every step from every state answers a next state. -/
def Obligations.EveryStepCompletes : Prop := ∀ s : State, Completes (step s)

/-- An operation presented to the next step (the model's `withFetchWord`, log 1) is the one that step runs, and it completes. -/
def Obligations.PresentedOperationRuns : Prop :=
  ∀ (i : Instr) (s : State), i.wellFormed = true →
    step (s.withFetchWord 16 (encode i).toNat) = mapNext (afterExec i) (exec i { present i s with inputs := s.inputs })
      ∧ Completes (exec i { present i s with inputs := s.inputs })

/-! ## Start, stop and slots -/

/-- R182, R210, R233: a start condition begins a fresh address phase from any state, labelled `ProtocolReset` outside Idle. That `sub`
and `rxok` stay is the model's reading of R182 (log 24); `busOut` and `cond` are the outputs and the label of the step (log 17). -/
def Obligations.StartBeginsAddressPhase : Prop :=
  ∀ s : State, exec .start s =
    .next { s with phase := .addressPhase, bitcnt := 0, shreg := 0x00, bytecnt := 0, busOut := none
                   cond := if s.phase = .idle then none else some .protocolReset }

/-- R183: a stop condition returns to Idle and changes nothing else. -/
def Obligations.StopReturnsToIdle : Prop :=
  ∀ s : State, exec .stop s = .next { s with phase := .idle, busOut := none, cond := none }

/-- R184: a slot in Idle is ignored, the line is released. -/
def Obligations.IdleSlotIgnored : Prop :=
  ∀ (m : Bool) (s : State), exec (.slotIdle m) s = .next { s with busOut := some ⟨true, m⟩, cond := none }

/-- R185: one bit of the address byte is shifted in from the right; the eighth ends the address phase. -/
def Obligations.AddressBitShiftedIn : Prop :=
  ∀ (a : BitVec 7) (d : Bool) (s : State),
    (s.bitcnt = 7 → exec (.slotAddr a d) s =
      .next { s with shreg := (s.shreg <<< 1) ||| (if d then 1 else 0), phase := .addressCheck, bitcnt := 0
                     busOut := some ⟨true, d⟩, cond := none }) ∧
    (s.bitcnt ≠ 7 → exec (.slotAddr a d) s =
      .next { s with shreg := (s.shreg <<< 1) ||| (if d then 1 else 0), bitcnt := s.bitcnt + 1
                     busOut := some ⟨true, d⟩, cond := none })

/-- R92, R107: eight slots after a start put the address byte into `shreg`, most significant bit first. -/
def Obligations.AddressByteAssembled : Prop :=
  ∀ (s : State) (b : Byte) (rest : List Input), s.powered = true → s.phase = .addressPhase → s.bitcnt = 0 →
    s.inputs = byteSlots b ++ rest →
    runSteps 8 s = .next { s with phase := .addressCheck, bitcnt := 0, shreg := b, inputs := rest
                                  busOut := some ⟨true, b.getLsbD 0⟩, cond := none }

/-- R186, R187: a matching write address is acknowledged and ReceiverMode begins; the cursor does not move. -/
def Obligations.WriteAddressAcknowledged : Prop :=
  ∀ (a : SlaveAddr) (k : Bool) (s : State), exec (.addrAckW a k) s =
    .next { s with phase := .receiverMode, sub := .data, bitcnt := 0, busOut := some ⟨false, false⟩, cond := none }

/-- R186, R187, R219: a matching read address is acknowledged, the byte at the cursor is fetched and the cursor advances; above
offset 30 the byte is unspecified and everything else the same. -/
def Obligations.ReadAddressFetchesByte : Prop :=
  ∀ (a : SlaveAddr) (k : Bool) (s : State),
    (∀ h : s.cursor.toNat < 31, exec (.addrAckR a k) s =
      .next { s with phase := .transmitterMode, sub := .data, bitcnt := 0, shreg := s.rf[s.cursor.toNat], cursor := s.cursor + 1
                     busOut := some ⟨false, false⟩, cond := none }) ∧
    (31 ≤ s.cursor.toNat → ∃ v : Byte, exec (.addrAckR a k) s =
      .next { s with phase := .transmitterMode, sub := .data, bitcnt := 0, shreg := v, cursor := s.cursor + 1
                     busOut := some ⟨false, false⟩, cond := none, draws := s.draws + 1 })

/-- R231: an address mismatch releases the line, returns to Idle and changes nothing else. -/
def Obligations.MismatchReturnsToIdle : Prop :=
  ∀ (x : SlaveAddr) (d k : Bool) (s : State), exec (.addrNack x d k) s =
    .next { s with phase := .idle, busOut := some ⟨true, k⟩, cond := some .addressMismatch }

/-- R198, R224: a transaction for another address changes nothing but the engine's working state, whatever slots follow: the
Register File, the cursor and every engine's state stay, and the engine is in Idle. -/
def Obligations.OtherAddressIgnored : Prop :=
  ∀ (s : State) (v : Byte) (ms : List Bool) (rest : List Input), s.powered = true → v.extractLsb' 1 7 ≠ s.ownAddr →
    s.inputs = addressedSlots v ms ++ rest →
    ∃ t, runSteps (10 + ms.length) s = .next t ∧ t.inputs = rest ∧ t.phase = .idle ∧ t.bytecnt = 0
      ∧ t = { s with phase := t.phase, bitcnt := t.bitcnt, shreg := t.shreg, bytecnt := t.bytecnt, busOut := t.busOut
                     cond := t.cond, inputs := t.inputs }

/-- R188: one bit of a received byte is shifted in; the eighth delivers the byte, as the offset when it is the first since the
start (R211) and otherwise as data (R212). -/
def Obligations.ReceivedBitShiftedIn : Prop :=
  ∀ (m : Bool) (s : State),
    let b : Byte := (s.shreg <<< 1) ||| (if m then 1 else 0)
    (s.bitcnt ≠ 7 → exec (.rxBit m) s =
      .next { s with shreg := b, bitcnt := s.bitcnt + 1, busOut := some ⟨true, m⟩, cond := none }) ∧
    (s.bitcnt = 7 → s.bytecnt = 0 → exec (.rxBit m) s =
      .next { s with shreg := b, cursor := b, bytecnt := 1, rxok := true, sub := .ack, bitcnt := 0
                     busOut := some ⟨true, m⟩, cond := none }) ∧
    (s.bitcnt = 7 → s.bytecnt = 1 → ∃ t, exec (.rxBit m) s = .next t ∧ exec (.rxData b) s = .next t ∧ t.cursor = s.cursor + 1)

/-- R211: the offset byte loads the cursor whole, nothing is stored. -/
def Obligations.OffsetByteLoadsCursor : Prop :=
  ∀ (o : Byte) (s : State), exec (.rxOffset o) s =
    .next { s with cursor := o, bytecnt := 1, shreg := o, rxok := true, sub := .ack, bitcnt := 0
                   busOut := some ⟨true, o.getLsbD 0⟩, cond := none }

/-- R212 to R217: a data byte is stored at the cursor under the write policy, the cursor advances at every offset, and no other
byte of the offset space changes. -/
def Obligations.DataByteStoredUnderPolicy : Prop :=
  ∀ (d : Byte) (s : State), ∃ t, exec (.rxData d) s = .next t
    ∧ t = { s with rf := t.rf, isLeap := t.isLeap, cursor := s.cursor + 1, shreg := d, rxok := true, sub := .ack, bitcnt := 0
                   busOut := some ⟨true, d.getLsbD 0⟩, cond := none }
    ∧ (∀ a : Byte, a ≠ s.cursor → t.peek a = s.peek a)
    ∧ t.peek s.cursor =
        (if s.cursor.toNat ≤ 25 ∨ s.cursor = 28 ∨ s.cursor = 29 then some d
         else if s.cursor = 30 then some (d &&& s.rf[30]) else s.peek s.cursor)
    ∧ t.isLeap = (if s.cursor = 6 ∧ Config.leapRefreshOnYearWrite = true then leapTest d else s.isLeap)

/-- R68: a store is idempotent at every offset, 30 included. -/
def Obligations.StoringTwiceIsStoringOnce : Prop :=
  ∀ (o b : Byte) (s : State), memWrite o b (memWrite o b s) = memWrite o b s

/-- R189: the slave acknowledges a received byte, or, had the callback rejected it, aborts. -/
def Obligations.ReceivedByteAcknowledged : Prop :=
  ∀ (k : Bool) (s : State),
    (s.rxok = true → exec (.rxAck k) s =
      .next { s with sub := .data, bitcnt := 0, busOut := some ⟨false, false⟩, cond := none }) ∧
    (s.rxok = false → exec (.rxAck k) s =
      .next { s with phase := .idle, busOut := some ⟨true, k⟩, cond := some .writeRejected })

/-- R190: the slave drives bit `7 - bitcnt` of `shreg`, which is not changed; the eighth bit ends the data slots. -/
def Obligations.TransmittedBitDriven : Prop :=
  ∀ (m : Bool) (s : State),
    let bit := s.shreg.getLsbD (7 - s.bitcnt.val)
    (s.bitcnt = 7 → exec (.txBit m) s =
      .next { s with sub := .ack, bitcnt := 0, busOut := some ⟨bit, m && bit⟩, cond := none }) ∧
    (s.bitcnt ≠ 7 → exec (.txBit m) s =
      .next { s with bitcnt := s.bitcnt + 1, busOut := some ⟨bit, m && bit⟩, cond := none })

/-- R191, R219: on the master's acknowledge the next byte is fetched and the cursor advances; above offset 30 the byte is
unspecified. -/
def Obligations.MasterAckFetchesByte : Prop :=
  ∀ s : State,
    (∀ h : s.cursor.toNat < 31, exec .txMack s =
      .next { s with sub := .data, bitcnt := 0, shreg := s.rf[s.cursor.toNat], cursor := s.cursor + 1
                     busOut := some ⟨true, false⟩, cond := none }) ∧
    (31 ≤ s.cursor.toNat → ∃ v : Byte, exec .txMack s =
      .next { s with sub := .data, bitcnt := 0, shreg := v, cursor := s.cursor + 1
                     busOut := some ⟨true, false⟩, cond := none, draws := s.draws + 1 })

/-- R191: on the master's not-acknowledge nothing is fetched and the engine is in Idle. -/
def Obligations.MasterNackEndsTransfer : Prop :=
  ∀ s : State, exec .txMnack s = .next { s with phase := .idle, busOut := some ⟨true, true⟩, cond := none }

/-- R190, R191: after the master's acknowledge, with the line released, the eight slots carry the byte at the cursor, most
significant bit first, whatever register it is. -/
def Obligations.NextByteReadFromCursor : Prop :=
  ∀ (s : State) (rest : List Input) (k : Nat), s.powered = true → s.phase = .transmitterMode → s.sub = .ack →
    s.inputs = .slot false :: (List.replicate 8 (.slot true) ++ rest) → k < 8 → ∀ h : s.cursor.toNat < 31,
    ∃ t, runSteps (k + 2) s = .next t ∧ t.cursor = s.cursor + 1 ∧ t.rf = s.rf
      ∧ t.busOut = some ⟨s.rf[s.cursor.toNat].getLsbD (7 - k), s.rf[s.cursor.toNat].getLsbD (7 - k)⟩
      ∧ t.sub = (if k = 7 then .ack else .data)

/-- R221: a whole write transaction stores its bytes in order from the offset, under the policy, and leaves the cursor behind the
last; it holds for every number of bytes and every offset, past 30 and past 255 too. -/
def Obligations.WriteTransactionStoresInOrder : Prop :=
  ∀ (s : State) (o : Byte) (bs : List Byte) (rest : List Input), s.powered = true →
    s.inputs = writeTransaction s.ownAddr o bs ++ rest →
    ∃ t, runSteps (20 + 9 * bs.length) s = .next t ∧ t.inputs = rest ∧ t.phase = .idle ∧ t.bytecnt = 1
      ∧ t.cursor = o + BitVec.ofNat 8 bs.length ∧ t.rf = (storeAll o bs s).rf ∧ t.isLeap = (storeAll o bs s).isLeap
      ∧ t.tick = s.tick ∧ t.pend = s.pend ∧ t.out = s.out ∧ t.ownAddr = s.ownAddr ∧ t.draws = s.draws

/-- R222: a whole read transaction of `n + 1` bytes advances the cursor by `n + 1` modulo 256, changes no register and ends in
Idle. -/
def Obligations.ReadTransactionAdvancesCursor : Prop :=
  ∀ (s : State) (n : Nat) (rest : List Input), s.powered = true → s.inputs = readTransaction s.ownAddr n ++ rest →
    ∃ t, runSteps (20 + 9 * n) s = .next t ∧ t.inputs = rest ∧ t.phase = .idle ∧ t.bytecnt = 0
      ∧ t.cursor = s.cursor + BitVec.ofNat 8 (n + 1) ∧ t.rf = s.rf ∧ t.isLeap = s.isLeap
      ∧ t.tick = s.tick ∧ t.pend = s.pend ∧ t.out = s.out ∧ t.ownAddr = s.ownAddr

/-! ## Frames -/

/-- R201: what a bus operation can change. The Register File and the leap cache change only where a data byte is stored, the cursor
only there, at the offset byte, and where a byte is fetched, the byte count only at `START` and at the offset byte. -/
def Obligations.BusOperationFrame : Prop :=
  ∀ (i : Instr) (s t : State), i.isBus = true → exec i s = .next t →
    let storesByte := (∃ d, i = .rxData d) ∨ ((∃ m, i = .rxBit m) ∧ s.bitcnt = 7 ∧ s.bytecnt = 1)
    let loadsOffset := (∃ o, i = .rxOffset o) ∨ ((∃ m, i = .rxBit m) ∧ s.bitcnt = 7 ∧ s.bytecnt = 0)
    let fetches := (∃ a k, i = .addrAckR a k) ∨ i = .txMack
    t.tick = s.tick ∧ t.pend = s.pend ∧ t.out = s.out ∧ t.ownAddr = s.ownAddr ∧ t.powered = s.powered ∧ t.inputs = s.inputs
      ∧ (∀ a : Byte, a ≠ s.cursor → t.peek a = s.peek a)
      ∧ (t.rf ≠ s.rf → storesByte)
      ∧ (t.isLeap ≠ s.isLeap → storesByte ∧ s.cursor = 6 ∧ Config.leapRefreshOnYearWrite = true)
      ∧ (t.cursor ≠ s.cursor → (loadsOffset ∧ t.cursor = t.shreg) ∨ ((storesByte ∨ fetches) ∧ t.cursor = s.cursor + 1))
      ∧ (t.bytecnt ≠ s.bytecnt → (i = .start ∧ t.bytecnt = 0) ∨ (loadsOffset ∧ t.bytecnt = 1))

/-- R49: no operation but CHECK_ALARMS, alone or run by a DRAIN with the check pending, turns a flag of offset 30 from 0 to 1. -/
def Obligations.OnlyAlarmCheckRaisesFlags : Prop :=
  ∀ (i : Instr) (s t : State), i ≠ .checkAlarms → (∀ c a r p, i = .drain c a r p → s.pend.check = false) →
    exec i s = .next t → t.rf[30] &&& ~~~s.rf[30] = 0

/-- R248, R249: the tick scheduler and the engines leave the bus engine alone and never write offsets 8 to 29. -/
def Obligations.EngineOperationFrame : Prop :=
  ∀ (i : Instr) (s t : State), i.isBus = false → (∀ v, i ≠ .reset v) → exec i s = .next t →
    t = { s with rf := t.rf, isLeap := t.isLeap, tick := t.tick, pend := t.pend, out := t.out, draws := t.draws }
      ∧ ∀ a : Byte, 8 ≤ a.toNat → a ≠ 30 → t.peek a = s.peek a

/-- R248, R253: the host cannot read the leap cache, the tick counter, the pending flags or the output lines over the bus: on states
that differ only in them a bus operation has the same effect on everything else, the line included. -/
def Obligations.HiddenStateInvisibleOnBus : Prop :=
  ∀ (i : Instr) (s s' t t' : State), i.isBus = true → SameOnBus s s' → exec i s = .next t → exec i s' = .next t' →
    SameOnBus t t'

/-! ## The Time Engine -/

/-- R121: on BCD bytes the increment counts the digits separately; the high nibble is 10 exactly after 0x99, and up to there the
increment adds one and stays BCD. -/
def Obligations.BcdIncrementByDigits : Prop :=
  ∀ b : Byte, isBcd b = true →
    units (bcdInc b) = (if units b = 9 then 0 else units b + 1) ∧ tens (bcdInc b) = (if units b = 9 then tens b + 1 else tens b)
      ∧ (tens (bcdInc b) = 10 ↔ b = 0x99) ∧ (b ≠ 0x99 → isBcd (bcdInc b) = true ∧ val (bcdInc b) = val b + 1)

/-- R124: on BCD years the leap test is true exactly for twenty years of a century. -/
def Obligations.LeapTestYears : Prop :=
  ∀ y : Byte, isBcd y = true →
    (leapTest y = true ↔ val y ∈ [4, 8, 12, 16, 24, 28, 32, 36, 44, 48, 52, 56, 64, 68, 72, 76, 84, 88, 92, 96])

/-- R120 to R125, R137: in the domain ADVANCE completes and adds one second to the time of day, modulo a day; it changes only
`RF[0..7]`, the leap cache and the check request. -/
def Obligations.AdvanceAddsOneSecond : Prop :=
  ∀ s : State, s.time.inDomain = true → ∃ t, exec .advance s = .next t
    ∧ t.time.secondOfDay = (s.time.secondOfDay + 1) % 86400
    ∧ t = { s with rf := t.rf, isLeap := t.isLeap, pend := { s.pend with check := t.pend.check } }
    ∧ ∀ a : Byte, 8 ≤ a.toNat → t.peek a = s.peek a

/-- R120, R122: below second 59 only the seconds change. -/
def Obligations.AdvanceBelowFiftyNine : Prop :=
  ∀ s : State, s.time.inDomain = true → val s.rf[0] ≤ 58 →
    exec .advance s = .next { s with rf := s.rf.set 0 (bcdInc s.rf[0]) }

/-- R131: the check is requested exactly when the seconds roll; no flag of offset 30 is written. -/
def Obligations.SecondsRollRequestsCheck : Prop :=
  ∀ s : State, s.time.inDomain = true → ∃ t, exec .advance s = .next t
    ∧ t.pend = { s.pend with check := s.pend.check || decide (s.rf[0] = 0x59) } ∧ t.rf[30] = s.rf[30]

/-- R135: a field changes only when every field below it rolled; the month, the year, the century and the leap cache only at
23:59:59 and with a date that changed to 1. -/
def Obligations.CarryStopsAtFirstField : Prop :=
  ∀ s t : State, s.time.inDomain = true → exec .advance s = .next t →
    (t.time.min ≠ s.time.min → s.time.sec = 0x59)
    ∧ (t.time.hour ≠ s.time.hour → s.time.sec = 0x59 ∧ s.time.min = 0x59)
    ∧ (t.time.dow ≠ s.time.dow ∨ t.time.date ≠ s.time.date → s.time.sec = 0x59 ∧ s.time.min = 0x59 ∧ s.time.hour = 0x23)
    ∧ (t.time.month ≠ s.time.month ∨ t.time.year ≠ s.time.year ∨ t.time.century ≠ s.time.century ∨ t.isLeap ≠ s.isLeap →
        s.time.sec = 0x59 ∧ s.time.min = 0x59 ∧ s.time.hour = 0x23 ∧ t.time.date ≠ s.time.date ∧ t.time.date = 0x01)
    ∧ (t.time.year ≠ s.time.year → s.time.month = 0x12 ∧ t.time.month = 0x01)
    ∧ (t.time.century ≠ s.time.century → s.time.year = 0x99 ∧ t.time.year = 0x00)
    ∧ (t.isLeap ≠ s.isLeap → t.time.year ≠ s.time.year)

/-- R126: the weekday advances exactly with the hours' roll, 7 to 1, in the same `ADVANCE` as the date, and depends on nothing
else. -/
def Obligations.WeekdayInLockStep : Prop :=
  ∀ s : State, s.time.inDomain = true → ∃ t, exec .advance s = .next t
    ∧ t.time.dow = (if s.rf[0] = 0x59 ∧ s.rf[1] = 0x59 ∧ s.rf[2] = 0x23 then (if s.time.dow = 7 then 1 else s.time.dow + 1)
        else s.time.dow)
    ∧ (t.time.date ≠ s.time.date ↔ s.rf[0] = 0x59 ∧ s.rf[1] = 0x59 ∧ s.rf[2] = 0x23)

/-- R127: at the end of the day the stored date is compared with the four constants of its month. -/
def Obligations.DateRollsByStoredDate : Prop :=
  ∀ s : State, s.time.inDomain = true → s.rf[0] = 0x59 → s.rf[1] = 0x59 → s.rf[2] = 0x23 → ∃ t, exec .advance s = .next t
    ∧ (if (s.rf[5] = 0x02 ∧ (s.rf[4] = 0x29 ∧ s.isLeap = false ∨ s.rf[4] = 0x30))
          ∨ (s.rf[4] = 0x31 ∧ s.rf[5] ∈ ([0x04, 0x06, 0x09, 0x11] : List Byte))
          ∨ (s.rf[4] = 0x32 ∧ s.rf[5] ∈ ([0x01, 0x03, 0x05, 0x07, 0x08, 0x10, 0x12] : List Byte))
        then t.rf[4] = 0x01 ∧ val t.rf[5] = val s.rf[5] % 12 + 1
        else val t.rf[4] = val s.rf[4] + 1 ∧ t.rf[5] = s.rf[5] ∧ t.rf[6] = s.rf[6] ∧ t.rf[7] = s.rf[7] ∧ t.isLeap = s.isLeap)

/-- R128 to R130: the last second of a year increments the year modulo 100 and, from 99, the century modulo 100, and recomputes
the leap cache from the new year. -/
def Obligations.YearRollRefreshesLeapCache : Prop :=
  ∀ s : State, s.time.inDomain = true → s.rf[0] = 0x59 → s.rf[1] = 0x59 → s.rf[2] = 0x23 → s.rf[4] = 0x32 → s.rf[5] = 0x12 →
    ∃ t, exec .advance s = .next t ∧ t.rf[5] = 0x01 ∧ val t.rf[6] = (val s.rf[6] + 1) % 100 ∧ t.isLeap = leapTest t.rf[6]
      ∧ (if s.rf[6] = 0x99 then val t.rf[7] = (val s.rf[7] + 1) % 100 else t.rf[7] = s.rf[7])

/-- R132: outside the domain ADVANCE still completes, and `RF[8..30]`, the tick, the outputs, the other flags and the bus state are
unchanged. -/
def Obligations.AdvanceOutsideDomainFrame : Prop :=
  ∀ s : State, s.time.inDomain = false → ∃ t, exec .advance s = .next t
    ∧ t = { s with rf := t.rf, isLeap := t.isLeap, pend := { s.pend with check := t.pend.check }, draws := t.draws }
    ∧ ∀ a : Byte, 8 ≤ a.toNat → t.peek a = s.peek a

/-- R48, R135: a calendar state stays one over every step of every agent, as long as no host store goes to offsets 0 to 7. -/
def Obligations.CalendarKeptByEveryStep : Prop :=
  ∀ s t : State, CalendarReachable s.time s.isLeap → ¬StoresTime s → step s = .next t → CalendarReachable t.time t.isLeap

/-- R48: the reset state is a calendar state. -/
def Obligations.CalendarAtReset : Prop := CalendarReachable State.reset.time State.reset.isLeap

/-! ## The Alarm and Interrupt Engine -/

/-- R140 to R143: with a weekday in 1 to 7, CHECK_ALARMS sets the flag of each alarm whose minute, hour with marker and day match,
keeps every other flag, and changes nothing else. -/
def Obligations.CheckAlarmsSetsMatchingFlags : Prop :=
  ∀ s : State, 1 ≤ s.rf[3].toNat → s.rf[3].toNat ≤ 7 → ∃ v : Byte,
    exec .checkAlarms s = .next { s with rf := s.rf.set 30 v }
      ∧ (∀ k : Fin 6, v.getLsbD k.val =
          (s.rf[30].getLsbD k.val
            || (decide (s.rf[1] = s.rf[8 + 3 * k.val]) && decide (s.rf[2] + 0x80 = s.rf[9 + 3 * k.val])
              && (s.rf[10 + 3 * k.val].getLsbD 7 || s.rf[10 + 3 * k.val].getLsbD (s.rf[3].toNat - 1)))))
      ∧ v.getLsbD 6 = s.rf[30].getLsbD 6 ∧ v.getLsbD 7 = s.rf[30].getLsbD 7

/-- R140 to R143, R150: whatever the weekday, CHECK_ALARMS completes and changes offset 30 alone (and the count of draws). The flag of
alarm `k` is set when minute and marked hour match and either the match-any bit is set or the weekday's bit is; outside weekdays
1 to 7 the weekday's bit is a free value `v k` (R142; the form of the free value is the model's choice, log 8). No flag is cleared,
bits 6 and 7 stay, and the enable mask and the configuration take no part. -/
def Obligations.AlarmCheckNeverClears : Prop :=
  ∀ (s : State) (x y : Byte), ∃ (t : State) (v : Fin 6 → Bool), exec .checkAlarms s = .next t
    ∧ t = { s with rf := t.rf, draws := t.draws } ∧ (∀ a : Byte, a ≠ 30 → t.peek a = s.peek a)
    ∧ s.rf[30] &&& ~~~t.rf[30] = 0 ∧ t.rf[30] &&& 0xC0 = s.rf[30] &&& 0xC0
    ∧ (∀ k : Fin 6, t.rf[30].getLsbD k.val =
        (s.rf[30].getLsbD k.val
          || (decide (s.rf[1] = s.rf[8 + 3 * k.val]) && decide (s.rf[2] + 0x80 = s.rf[9 + 3 * k.val])
            && (s.rf[10 + 3 * k.val].getLsbD 7
              || (if 1 ≤ s.rf[3].toNat ∧ s.rf[3].toNat ≤ 7 then s.rf[10 + 3 * k.val].getLsbD (s.rf[3].toNat - 1) else v k)))))
    ∧ exec .checkAlarms { s with rf := (s.rf.set 28 x).set 29 y } = .next { t with rf := (t.rf.set 28 x).set 29 y }

/-- R32, R141: an alarm without the match-enable marker never sets its flag while the hour register holds no bit 7. -/
def Obligations.NoMarkerNoMatch : Prop :=
  ∀ (s t : State) (k : Fin 6), s.rf[2].getLsbD 7 = false → s.rf[9 + 3 * k.val].getLsbD 7 = false →
    exec .checkAlarms s = .next t → t.rf[30].getLsbD k.val = s.rf[30].getLsbD k.val

/-- R146: the unison line is asserted when some alarm is flagged and enabled, the dedicated line of each such alarm when the
configuration bit is set; no line is lowered and nothing else changes. -/
def Obligations.DriveInterruptsAssertsLines : Prop :=
  ∀ s : State, ∃ o : Out, exec .driveInterrupts s = .next { s with out := o } ∧ o.sqw = s.out.sqw
    ∧ (o.int = true ↔ s.out.int = true ∨ ∃ k : Fin 6, s.rf[30].getLsbD k.val = true ∧ s.rf[29].getLsbD k.val = true)
    ∧ ∀ k : Fin 6, o.ded[k.val] = (s.out.ded[k.val]
        || (s.rf[28].getLsbD 7 && s.rf[30].getLsbD k.val && s.rf[29].getLsbD k.val))

/-- R148: the seven interrupt lines are lowered, whatever they were, and nothing else changes. -/
def Obligations.ResetInterruptsLowersLines : Prop :=
  ∀ s : State, exec .resetInterrupts s =
    .next { s with out := { sqw := s.out.sqw, int := false, ded := #v[false, false, false, false, false, false] } }

/-! ## The Tick Scheduler -/

/-- R105, R161: TICK by its phase `tick + 1`; the Register File does not change (R164). -/
def Obligations.TickActsByPhase : Prop :=
  ∀ (x : BitVec 5) (s : State), ∃ t, exec (.tick x) s = .next t
    ∧ t = { s with tick := t.tick, pend := t.pend, out := { s.out with sqw := t.out.sqw } }
    ∧ t.tick.val = (s.tick.val + 1) % 16
    ∧ t.pend = { assert := s.pend.assert || s.tick.val + 1 == 2, reset := s.pend.reset || s.tick.val + 1 == 6
                 advance := s.pend.advance || s.tick.val + 1 == 12, check := s.pend.check }
    ∧ t.out.sqw = xor s.out.sqw (s.tick.val + 1 == 8 || s.tick.val + 1 == 16)

/-- R161, R163, R168: sixteen ticks from any phase, with no DRAIN between, raise the three requests, toggle the square wave twice
and bring the counter back. -/
def Obligations.SixteenTicksAreOneCycle : Prop :=
  ∀ (s : State) (rest : List Input), s.powered = true → s.inputs = List.replicate 16 .tick ++ rest →
    runSteps 16 s = .next { s with pend := { assert := true, reset := true, advance := true, check := s.pend.check }
                                   inputs := rest }

/-- R165, R166: a DRAIN with something pending runs the operation of one pending action and clears that action's flag and no
other. -/
def Obligations.DrainServesOnePendingAction : Prop :=
  ∀ (c a r p : Bool) (s : State), s.pend.any = true → ∃ (x : PendAction) (n : Nat) (u t : State),
    s.pend.get x = true ∧ exec x.instr { s with draws := n } = .next u ∧ exec (.drain c a r p) s = .next t
      ∧ t = { u with pend := t.pend } ∧ t.pend.get x = false ∧ ∀ y, y ≠ x → t.pend.get y = u.pend.get y

/-- R165: the check that ADVANCE requests survives the clear of ADVANCE's own flag. -/
def Obligations.CheckRequestSurvivesDrain : Prop :=
  ∀ (c a r p : Bool) (s : State), s.time.inDomain = true → s.rf[0] = 0x59 →
    s.pend = { assert := false, reset := false, advance := true, check := false } →
    ∃ t, exec (.drain c a r p) s = .next t ∧ t.rf[0] = 0x00
      ∧ t.pend = { assert := false, reset := false, advance := false, check := true }

/-- R165: a DRAIN with nothing pending is not enabled; the model's choice is that nothing happens (log 10). -/
def Obligations.DrainWithNothingPending : Prop :=
  ∀ (c a r p : Bool) (s : State), s.pend.any = false → exec (.drain c a r p) s = .next s

/-- R46, R166: the schedule may choose any pending action. -/
def Obligations.ScheduleMayChooseAction : Prop :=
  ∀ (s : State) (x : PendAction) (rest : List Input), s.powered = true → s.inputs = .drain (some x) :: rest →
    s.pend.get x = true → ∃ u, exec x.instr { s with inputs := rest } = .next u ∧ step s = .next { u with pend := u.pend.put x false }

/-- R165, R167: with no event due the deferred-work context serves every request within five steps (the model's idle step, log 10). -/
def Obligations.IdleContextDrainsAll : Prop :=
  ∀ s : State, s.powered = true → s.inputs = [] → ∃ t, runSteps 5 s = .next t ∧ t.pend.any = false

/-! ## Power-up and invariants -/

/-- R58: the reset state. -/
def Obligations.ResetStateValues : Prop :=
  let s := State.reset
  (∀ (i : Nat) (h : i < 31), s.rf[i] = if i = 3 then 0x06 else if i = 4 ∨ i = 5 then 0x01 else if i = 7 then 0x20 else 0x00)
    ∧ s.isLeap = false ∧ s.tick = 0 ∧ s.pend.any = false ∧ s.out.sqw = false ∧ s.out.int = false
    ∧ (∀ (k : Nat) (h : k < 6), s.out.ded[k] = false) ∧ s.phase = .idle ∧ s.cursor = 0 ∧ s.bytecnt = 0
    ∧ (s.ownAddr = Config.addrA ∨ s.ownAddr = Config.addrB)

/-- R57, R260: RESET from any state gives the reset state with the address that the strap selects; the two addresses differ. What
the agents have yet to deliver stays (log 16). -/
def Obligations.PowerUpSelectsAddress : Prop :=
  Config.addrA ≠ Config.addrB ∧ ∀ (v : Bool) (s : State), ∃ t, exec (.reset v) s = .next t
    ∧ t.ownAddr = (if v then Config.addrB else Config.addrA)
    ∧ t = { State.reset with ownAddr := t.ownAddr, draws := s.draws, inputs := s.inputs }

/-- R260: before power-up every other event is lost, and a running block takes no second power-up (log 16). -/
def Obligations.EventsLostBeforePowerUp : Prop :=
  ∀ (s : State) (e : Input) (rest : List Input), s.inputs = e :: rest →
    (s.powered = false → (∀ v, e ≠ .powerUp v) → step s = .next { s with inputs := rest }) ∧
    (s.powered = false → ∀ v, e = .powerUp v → step s = exec (.reset v) { s with inputs := rest }) ∧
    (s.powered = true → ∀ v, e = .powerUp v → step s = .next { s with inputs := rest })

/-- R34, R37, R44, R220, R232: every step of every agent keeps offsets 26 and 27 and the high flag bits at 0, never rejects a byte
and answers to one of the two addresses. -/
def Obligations.SoundKeptByEveryStep : Prop := ∀ s t : State, s.Sound → step s = .next t → t.Sound

/-- The reset state has these properties (R50 to R58). -/
def Obligations.SoundAtReset : Prop := State.reset.Sound
end

