-- ==== Sys2Proof/Laws/Decode.lean ====
section
/-!
SUPPORT. The parts of an operation word, and the decoder on words that are built from parts.
-/

namespace Sys2Proof

/-- The bits of a packed word, from the format down. -/
theorem pack_getLsbD (f : BitVec 4) (b : BitVec 9) (i : Nat) :
    (pack f b).getLsbD i =
      if i < 9 then b.getLsbD i else if i - 9 < 3 then (0 : BitVec 3).getLsbD (i - 9) else f.getLsbD (i - 9 - 3) := by
  show @BitVec.getLsbD (4 + 3 + 9) (f ++ (0 : BitVec 3) ++ b) i = _
  rw [BitVec.getLsbD_append, BitVec.getLsbD_append]

@[simp] theorem pack_format (f : BitVec 4) (b : BitVec 9) : (pack f b).extractLsb' 12 4 = f := by
  apply BitVec.eq_of_getLsbD_eq; intro i hi
  have h1 : ¬12 + i < 9 := by omega
  have h2 : ¬12 + i - 9 < 3 := by omega
  have h3 : 12 + i - 9 - 3 = i := by omega
  simp [pack_getLsbD, hi, h1, h2, h3]

@[simp] theorem pack_reserved (f : BitVec 4) (b : BitVec 9) : (pack f b).extractLsb' 9 3 = 0 := by
  apply BitVec.eq_of_getLsbD_eq; intro i hi
  have h1 : ¬9 + i < 9 := by omega
  simp [pack_getLsbD, hi, h1]

@[simp] theorem pack_bits (f : BitVec 4) (b : BitVec 9) : (pack f b).extractLsb' 0 9 = b := by
  apply BitVec.eq_of_getLsbD_eq; intro i hi
  simp [pack_getLsbD, hi]

/-- A packed word is decoded by its format and bits. -/
theorem decodeWord_pack (f : BitVec 4) (b : BitVec 9) : decodeWord (pack f b) = decodeFormat f b := by
  simp [decodeWord]

/-- Decoding the two bytes of a word is decoding the word. -/
theorem decode_wordBytes (w : OpWord) (rest : List Byte) :
    decode (wordBytes w ++ rest) = (decodeWord w).map fun i => (i, rest) := by
  have h : w.extractLsb' 8 8 ++ w.extractLsb' 0 8 = w := by
    apply BitVec.eq_of_getLsbD_eq; intro i hi
    show @BitVec.getLsbD (8 + 8) (w.extractLsb' 8 8 ++ w.extractLsb' 0 8) i = _
    rw [BitVec.getLsbD_append, BitVec.getLsbD_extractLsb', BitVec.getLsbD_extractLsb']
    split
    · simp [*]
    · have h1 : i - 8 < 8 := by omega
      have h2 : 8 + (i - 8) = i := by omega
      simp [h1, h2]
  simp only [wordBytes, List.cons_append, List.nil_append, decode]
  rw [h]

/-- A pattern that fits its format reaches the format's own decoder. -/
theorem narrow_of_lt {n : Nat} {b : BitVec 9} (h : b.toNat < 2 ^ n) (k : BitVec n → Except Reject Instr) :
    narrow n b k = k (b.setWidth n) := if_pos h

end Sys2Proof
end

