-- ==== Sys2Proof/Laws/State.lean ====
section
/-!
SUPPORT. One lemma for each field under each named update of the state: what the update leaves there.
-/

namespace Sys2Proof.Machine

variable (s : State)

/-! ## `putSlot`: the outputs of a slot -/

@[simp] theorem putSlot_rf (m d : Bool) : (putSlot m d s).rf = s.rf := rfl
@[simp] theorem putSlot_isLeap (m d : Bool) : (putSlot m d s).isLeap = s.isLeap := rfl
@[simp] theorem putSlot_tick (m d : Bool) : (putSlot m d s).tick = s.tick := rfl
@[simp] theorem putSlot_pend (m d : Bool) : (putSlot m d s).pend = s.pend := rfl
@[simp] theorem putSlot_out (m d : Bool) : (putSlot m d s).out = s.out := rfl
@[simp] theorem putSlot_phase (m d : Bool) : (putSlot m d s).phase = s.phase := rfl
@[simp] theorem putSlot_sub (m d : Bool) : (putSlot m d s).sub = s.sub := rfl
@[simp] theorem putSlot_bitcnt (m d : Bool) : (putSlot m d s).bitcnt = s.bitcnt := rfl
@[simp] theorem putSlot_shreg (m d : Bool) : (putSlot m d s).shreg = s.shreg := rfl
@[simp] theorem putSlot_rxok (m d : Bool) : (putSlot m d s).rxok = s.rxok := rfl
@[simp] theorem putSlot_cursor (m d : Bool) : (putSlot m d s).cursor = s.cursor := rfl
@[simp] theorem putSlot_ownAddr (m d : Bool) : (putSlot m d s).ownAddr = s.ownAddr := rfl
@[simp] theorem putSlot_bytecnt (m d : Bool) : (putSlot m d s).bytecnt = s.bytecnt := rfl
@[simp] theorem putSlot_busOut (m d : Bool) : (putSlot m d s).busOut = some { drive := d, level := m && d } := rfl
@[simp] theorem putSlot_cond (m d : Bool) : (putSlot m d s).cond = none := rfl
@[simp] theorem putSlot_draws (m d : Bool) : (putSlot m d s).draws = s.draws := rfl
@[simp] theorem putSlot_powered (m d : Bool) : (putSlot m d s).powered = s.powered := rfl
@[simp] theorem putSlot_inputs (m d : Bool) : (putSlot m d s).inputs = s.inputs := rfl

/-! ## `noSlot`: the outputs of a start or stop condition -/

@[simp] theorem noSlot_rf : (noSlot s).rf = s.rf := rfl
@[simp] theorem noSlot_isLeap : (noSlot s).isLeap = s.isLeap := rfl
@[simp] theorem noSlot_tick : (noSlot s).tick = s.tick := rfl
@[simp] theorem noSlot_pend : (noSlot s).pend = s.pend := rfl
@[simp] theorem noSlot_out : (noSlot s).out = s.out := rfl
@[simp] theorem noSlot_phase : (noSlot s).phase = s.phase := rfl
@[simp] theorem noSlot_sub : (noSlot s).sub = s.sub := rfl
@[simp] theorem noSlot_bitcnt : (noSlot s).bitcnt = s.bitcnt := rfl
@[simp] theorem noSlot_shreg : (noSlot s).shreg = s.shreg := rfl
@[simp] theorem noSlot_rxok : (noSlot s).rxok = s.rxok := rfl
@[simp] theorem noSlot_cursor : (noSlot s).cursor = s.cursor := rfl
@[simp] theorem noSlot_ownAddr : (noSlot s).ownAddr = s.ownAddr := rfl
@[simp] theorem noSlot_bytecnt : (noSlot s).bytecnt = s.bytecnt := rfl
@[simp] theorem noSlot_busOut : (noSlot s).busOut = none := rfl
@[simp] theorem noSlot_cond : (noSlot s).cond = none := rfl
@[simp] theorem noSlot_draws : (noSlot s).draws = s.draws := rfl
@[simp] theorem noSlot_powered : (noSlot s).powered = s.powered := rfl
@[simp] theorem noSlot_inputs : (noSlot s).inputs = s.inputs := rfl

/-! ## `raiseCondition`: taking a condition -/

@[simp] theorem raiseCondition_rf (c : Condition) : (raiseCondition c s).rf = s.rf := rfl
@[simp] theorem raiseCondition_isLeap (c : Condition) : (raiseCondition c s).isLeap = s.isLeap := rfl
@[simp] theorem raiseCondition_tick (c : Condition) : (raiseCondition c s).tick = s.tick := rfl
@[simp] theorem raiseCondition_pend (c : Condition) : (raiseCondition c s).pend = s.pend := rfl
@[simp] theorem raiseCondition_out (c : Condition) : (raiseCondition c s).out = s.out := rfl
@[simp] theorem raiseCondition_phase (c : Condition) : (raiseCondition c s).phase = s.phase := rfl
@[simp] theorem raiseCondition_sub (c : Condition) : (raiseCondition c s).sub = s.sub := rfl
@[simp] theorem raiseCondition_bitcnt (c : Condition) : (raiseCondition c s).bitcnt = s.bitcnt := rfl
@[simp] theorem raiseCondition_shreg (c : Condition) : (raiseCondition c s).shreg = s.shreg := rfl
@[simp] theorem raiseCondition_rxok (c : Condition) : (raiseCondition c s).rxok = s.rxok := rfl
@[simp] theorem raiseCondition_cursor (c : Condition) : (raiseCondition c s).cursor = s.cursor := rfl
@[simp] theorem raiseCondition_ownAddr (c : Condition) : (raiseCondition c s).ownAddr = s.ownAddr := rfl
@[simp] theorem raiseCondition_bytecnt (c : Condition) : (raiseCondition c s).bytecnt = s.bytecnt := rfl
@[simp] theorem raiseCondition_busOut (c : Condition) : (raiseCondition c s).busOut = s.busOut := rfl
@[simp] theorem raiseCondition_cond (c : Condition) : (raiseCondition c s).cond = some c := rfl
@[simp] theorem raiseCondition_draws (c : Condition) : (raiseCondition c s).draws = s.draws := rfl
@[simp] theorem raiseCondition_powered (c : Condition) : (raiseCondition c s).powered = s.powered := rfl
@[simp] theorem raiseCondition_inputs (c : Condition) : (raiseCondition c s).inputs = s.inputs := rfl

/-! ## `abort`: aborting a transaction -/

@[simp] theorem abort_rf (c : Condition) : (abort c s).rf = s.rf := rfl
@[simp] theorem abort_isLeap (c : Condition) : (abort c s).isLeap = s.isLeap := rfl
@[simp] theorem abort_tick (c : Condition) : (abort c s).tick = s.tick := rfl
@[simp] theorem abort_pend (c : Condition) : (abort c s).pend = s.pend := rfl
@[simp] theorem abort_out (c : Condition) : (abort c s).out = s.out := rfl
@[simp] theorem abort_phase (c : Condition) : (abort c s).phase = .idle := rfl
@[simp] theorem abort_sub (c : Condition) : (abort c s).sub = s.sub := rfl
@[simp] theorem abort_bitcnt (c : Condition) : (abort c s).bitcnt = s.bitcnt := rfl
@[simp] theorem abort_shreg (c : Condition) : (abort c s).shreg = s.shreg := rfl
@[simp] theorem abort_rxok (c : Condition) : (abort c s).rxok = s.rxok := rfl
@[simp] theorem abort_cursor (c : Condition) : (abort c s).cursor = s.cursor := rfl
@[simp] theorem abort_ownAddr (c : Condition) : (abort c s).ownAddr = s.ownAddr := rfl
@[simp] theorem abort_bytecnt (c : Condition) : (abort c s).bytecnt = s.bytecnt := rfl
@[simp] theorem abort_busOut (c : Condition) : (abort c s).busOut = s.busOut := rfl
@[simp] theorem abort_cond (c : Condition) : (abort c s).cond = some c := rfl
@[simp] theorem abort_draws (c : Condition) : (abort c s).draws = s.draws := rfl
@[simp] theorem abort_powered (c : Condition) : (abort c s).powered = s.powered := rfl
@[simp] theorem abort_inputs (c : Condition) : (abort c s).inputs = s.inputs := rfl

/-! ## `onStart`: the start callback -/

@[simp] theorem onStart_rf : (onStart s).rf = s.rf := rfl
@[simp] theorem onStart_isLeap : (onStart s).isLeap = s.isLeap := rfl
@[simp] theorem onStart_tick : (onStart s).tick = s.tick := rfl
@[simp] theorem onStart_pend : (onStart s).pend = s.pend := rfl
@[simp] theorem onStart_out : (onStart s).out = s.out := rfl
@[simp] theorem onStart_phase : (onStart s).phase = s.phase := rfl
@[simp] theorem onStart_sub : (onStart s).sub = s.sub := rfl
@[simp] theorem onStart_bitcnt : (onStart s).bitcnt = s.bitcnt := rfl
@[simp] theorem onStart_shreg : (onStart s).shreg = s.shreg := rfl
@[simp] theorem onStart_rxok : (onStart s).rxok = s.rxok := rfl
@[simp] theorem onStart_cursor : (onStart s).cursor = s.cursor := rfl
@[simp] theorem onStart_ownAddr : (onStart s).ownAddr = s.ownAddr := rfl
@[simp] theorem onStart_bytecnt : (onStart s).bytecnt = 0 := rfl
@[simp] theorem onStart_busOut : (onStart s).busOut = s.busOut := rfl
@[simp] theorem onStart_cond : (onStart s).cond = s.cond := rfl
@[simp] theorem onStart_draws : (onStart s).draws = s.draws := rfl
@[simp] theorem onStart_powered : (onStart s).powered = s.powered := rfl
@[simp] theorem onStart_inputs : (onStart s).inputs = s.inputs := rfl

/-! ## `advanceCursor`: the cursor's increment -/

@[simp] theorem advanceCursor_rf : (advanceCursor s).rf = s.rf := rfl
@[simp] theorem advanceCursor_isLeap : (advanceCursor s).isLeap = s.isLeap := rfl
@[simp] theorem advanceCursor_tick : (advanceCursor s).tick = s.tick := rfl
@[simp] theorem advanceCursor_pend : (advanceCursor s).pend = s.pend := rfl
@[simp] theorem advanceCursor_out : (advanceCursor s).out = s.out := rfl
@[simp] theorem advanceCursor_phase : (advanceCursor s).phase = s.phase := rfl
@[simp] theorem advanceCursor_sub : (advanceCursor s).sub = s.sub := rfl
@[simp] theorem advanceCursor_bitcnt : (advanceCursor s).bitcnt = s.bitcnt := rfl
@[simp] theorem advanceCursor_shreg : (advanceCursor s).shreg = s.shreg := rfl
@[simp] theorem advanceCursor_rxok : (advanceCursor s).rxok = s.rxok := rfl
@[simp] theorem advanceCursor_cursor : (advanceCursor s).cursor = s.cursor + 1 := rfl
@[simp] theorem advanceCursor_ownAddr : (advanceCursor s).ownAddr = s.ownAddr := rfl
@[simp] theorem advanceCursor_bytecnt : (advanceCursor s).bytecnt = s.bytecnt := rfl
@[simp] theorem advanceCursor_busOut : (advanceCursor s).busOut = s.busOut := rfl
@[simp] theorem advanceCursor_cond : (advanceCursor s).cond = s.cond := rfl
@[simp] theorem advanceCursor_draws : (advanceCursor s).draws = s.draws := rfl
@[simp] theorem advanceCursor_powered : (advanceCursor s).powered = s.powered := rfl
@[simp] theorem advanceCursor_inputs : (advanceCursor s).inputs = s.inputs := rfl

/-! ## `onReceiveOffset`: the receive callback on the offset byte -/

@[simp] theorem onReceiveOffset_rf (b : Byte) : (onReceiveOffset b s).2.rf = s.rf := rfl
@[simp] theorem onReceiveOffset_isLeap (b : Byte) : (onReceiveOffset b s).2.isLeap = s.isLeap := rfl
@[simp] theorem onReceiveOffset_tick (b : Byte) : (onReceiveOffset b s).2.tick = s.tick := rfl
@[simp] theorem onReceiveOffset_pend (b : Byte) : (onReceiveOffset b s).2.pend = s.pend := rfl
@[simp] theorem onReceiveOffset_out (b : Byte) : (onReceiveOffset b s).2.out = s.out := rfl
@[simp] theorem onReceiveOffset_phase (b : Byte) : (onReceiveOffset b s).2.phase = s.phase := rfl
@[simp] theorem onReceiveOffset_sub (b : Byte) : (onReceiveOffset b s).2.sub = s.sub := rfl
@[simp] theorem onReceiveOffset_bitcnt (b : Byte) : (onReceiveOffset b s).2.bitcnt = s.bitcnt := rfl
@[simp] theorem onReceiveOffset_shreg (b : Byte) : (onReceiveOffset b s).2.shreg = s.shreg := rfl
@[simp] theorem onReceiveOffset_rxok (b : Byte) : (onReceiveOffset b s).2.rxok = s.rxok := rfl
@[simp] theorem onReceiveOffset_cursor (b : Byte) : (onReceiveOffset b s).2.cursor = b := rfl
@[simp] theorem onReceiveOffset_ownAddr (b : Byte) : (onReceiveOffset b s).2.ownAddr = s.ownAddr := rfl
@[simp] theorem onReceiveOffset_bytecnt (b : Byte) : (onReceiveOffset b s).2.bytecnt = 1 := rfl
@[simp] theorem onReceiveOffset_busOut (b : Byte) : (onReceiveOffset b s).2.busOut = s.busOut := rfl
@[simp] theorem onReceiveOffset_cond (b : Byte) : (onReceiveOffset b s).2.cond = s.cond := rfl
@[simp] theorem onReceiveOffset_draws (b : Byte) : (onReceiveOffset b s).2.draws = s.draws := rfl
@[simp] theorem onReceiveOffset_powered (b : Byte) : (onReceiveOffset b s).2.powered = s.powered := rfl
@[simp] theorem onReceiveOffset_inputs (b : Byte) : (onReceiveOffset b s).2.inputs = s.inputs := rfl

/-! ## `finishByte`: the end of a received byte -/

@[simp] theorem finishByte_rf (b : Byte) (r : Bool × State) : (finishByte b r).rf = r.2.rf := rfl
@[simp] theorem finishByte_isLeap (b : Byte) (r : Bool × State) : (finishByte b r).isLeap = r.2.isLeap := rfl
@[simp] theorem finishByte_tick (b : Byte) (r : Bool × State) : (finishByte b r).tick = r.2.tick := rfl
@[simp] theorem finishByte_pend (b : Byte) (r : Bool × State) : (finishByte b r).pend = r.2.pend := rfl
@[simp] theorem finishByte_out (b : Byte) (r : Bool × State) : (finishByte b r).out = r.2.out := rfl
@[simp] theorem finishByte_phase (b : Byte) (r : Bool × State) : (finishByte b r).phase = r.2.phase := rfl
@[simp] theorem finishByte_sub (b : Byte) (r : Bool × State) : (finishByte b r).sub = .ack := rfl
@[simp] theorem finishByte_bitcnt (b : Byte) (r : Bool × State) : (finishByte b r).bitcnt = 0 := rfl
@[simp] theorem finishByte_shreg (b : Byte) (r : Bool × State) : (finishByte b r).shreg = b := rfl
@[simp] theorem finishByte_rxok (b : Byte) (r : Bool × State) : (finishByte b r).rxok = r.1 := rfl
@[simp] theorem finishByte_cursor (b : Byte) (r : Bool × State) : (finishByte b r).cursor = r.2.cursor := rfl
@[simp] theorem finishByte_ownAddr (b : Byte) (r : Bool × State) : (finishByte b r).ownAddr = r.2.ownAddr := rfl
@[simp] theorem finishByte_bytecnt (b : Byte) (r : Bool × State) : (finishByte b r).bytecnt = r.2.bytecnt := rfl
@[simp] theorem finishByte_busOut (b : Byte) (r : Bool × State) : (finishByte b r).busOut = r.2.busOut := rfl
@[simp] theorem finishByte_cond (b : Byte) (r : Bool × State) : (finishByte b r).cond = r.2.cond := rfl
@[simp] theorem finishByte_draws (b : Byte) (r : Bool × State) : (finishByte b r).draws = r.2.draws := rfl
@[simp] theorem finishByte_powered (b : Byte) (r : Bool × State) : (finishByte b r).powered = r.2.powered := rfl
@[simp] theorem finishByte_inputs (b : Byte) (r : Bool × State) : (finishByte b r).inputs = r.2.inputs := rfl

/-! ## `clearPend`: clearing a pending flag -/

@[simp] theorem clearPend_rf (x : PendAction) : (clearPend x s).rf = s.rf := rfl
@[simp] theorem clearPend_isLeap (x : PendAction) : (clearPend x s).isLeap = s.isLeap := rfl
@[simp] theorem clearPend_tick (x : PendAction) : (clearPend x s).tick = s.tick := rfl
@[simp] theorem clearPend_pend (x : PendAction) : (clearPend x s).pend = s.pend.put x false := rfl
@[simp] theorem clearPend_out (x : PendAction) : (clearPend x s).out = s.out := rfl
@[simp] theorem clearPend_phase (x : PendAction) : (clearPend x s).phase = s.phase := rfl
@[simp] theorem clearPend_sub (x : PendAction) : (clearPend x s).sub = s.sub := rfl
@[simp] theorem clearPend_bitcnt (x : PendAction) : (clearPend x s).bitcnt = s.bitcnt := rfl
@[simp] theorem clearPend_shreg (x : PendAction) : (clearPend x s).shreg = s.shreg := rfl
@[simp] theorem clearPend_rxok (x : PendAction) : (clearPend x s).rxok = s.rxok := rfl
@[simp] theorem clearPend_cursor (x : PendAction) : (clearPend x s).cursor = s.cursor := rfl
@[simp] theorem clearPend_ownAddr (x : PendAction) : (clearPend x s).ownAddr = s.ownAddr := rfl
@[simp] theorem clearPend_bytecnt (x : PendAction) : (clearPend x s).bytecnt = s.bytecnt := rfl
@[simp] theorem clearPend_busOut (x : PendAction) : (clearPend x s).busOut = s.busOut := rfl
@[simp] theorem clearPend_cond (x : PendAction) : (clearPend x s).cond = s.cond := rfl
@[simp] theorem clearPend_draws (x : PendAction) : (clearPend x s).draws = s.draws := rfl
@[simp] theorem clearPend_powered (x : PendAction) : (clearPend x s).powered = s.powered := rfl
@[simp] theorem clearPend_inputs (x : PendAction) : (clearPend x s).inputs = s.inputs := rfl

/-! ## `deliver`: delivering an event -/

@[simp] theorem deliver_rf (e : Input) : (deliver e s).rf = s.rf := rfl
@[simp] theorem deliver_isLeap (e : Input) : (deliver e s).isLeap = s.isLeap := rfl
@[simp] theorem deliver_tick (e : Input) : (deliver e s).tick = s.tick := rfl
@[simp] theorem deliver_pend (e : Input) : (deliver e s).pend = s.pend := rfl
@[simp] theorem deliver_out (e : Input) : (deliver e s).out = s.out := rfl
@[simp] theorem deliver_phase (e : Input) : (deliver e s).phase = s.phase := rfl
@[simp] theorem deliver_sub (e : Input) : (deliver e s).sub = s.sub := rfl
@[simp] theorem deliver_bitcnt (e : Input) : (deliver e s).bitcnt = s.bitcnt := rfl
@[simp] theorem deliver_shreg (e : Input) : (deliver e s).shreg = s.shreg := rfl
@[simp] theorem deliver_rxok (e : Input) : (deliver e s).rxok = s.rxok := rfl
@[simp] theorem deliver_cursor (e : Input) : (deliver e s).cursor = s.cursor := rfl
@[simp] theorem deliver_ownAddr (e : Input) : (deliver e s).ownAddr = s.ownAddr := rfl
@[simp] theorem deliver_bytecnt (e : Input) : (deliver e s).bytecnt = s.bytecnt := rfl
@[simp] theorem deliver_busOut (e : Input) : (deliver e s).busOut = s.busOut := rfl
@[simp] theorem deliver_cond (e : Input) : (deliver e s).cond = s.cond := rfl
@[simp] theorem deliver_draws (e : Input) : (deliver e s).draws = s.draws := rfl
@[simp] theorem deliver_powered (e : Input) : (deliver e s).powered = true := rfl
@[simp] theorem deliver_inputs (e : Input) : (deliver e s).inputs = e :: s.inputs := rfl

end Sys2Proof.Machine
end

