-- ==== Sys2Proof/Laws/Engines.lean ====
section
/-!
SUPPORT. One lemma for each operation of the Time Engine, the Alarm Engine and the Tick Scheduler: what it can do.
-/

namespace Sys2Proof.Machine

/-! ## The time registers -/

/-- What the time registers are after they have been replaced. -/
theorem time_putTime (s : State) (t : TimeRegs) : State.time { s with rf := putTime s.rf t } = t := by
  simp [State.time, putTime]

/-- Replacing the time registers leaves the slots from 8 on alone. -/
theorem putTime_getElem (rf : Vector Byte 31) (t : TimeRegs) (i : Nat) (h8 : 8 ≤ i) (h : i < 31) :
    (putTime rf t)[i] = rf[i] := by
  have hne (k : Nat) (hk : k < 8) : k ≠ i := by omega
  simp [putTime, hne 0, hne 1, hne 2, hne 3, hne 4, hne 5, hne 6, hne 7]

/-! ## `ADVANCE` -/

/-- In the domain: the carry chain, and a check is requested when the seconds rolled (R120, R131). -/
theorem advance_inDomain {s : State} (h : s.time.inDomain = true) :
    advance s =
      { s with rf := putTime s.rf (advanceTime s.time s.isLeap).time, isLeap := (advanceTime s.time s.isLeap).isLeap
               pend := { s.pend with check := s.pend.check || (advanceTime s.time s.isLeap).rolled } } := if_pos h

/-- Outside the domain: `RF[0..7]`, `is_leap` and `PEND.CHECK` are free values (R132). -/
theorem advance_outOfDomain {s : State} (h : s.time.inDomain = false) :
    advance s =
      { s with rf := putTime s.rf (freeTime s.draws), isLeap := Config.advanceLeap s.draws
               pend := { s.pend with check := Config.advanceCheck s.draws }, draws := s.draws + 1 } :=
  if_neg (by simp [h])

/-- Whatever the domain, `ADVANCE` changes `RF[0..7]`, `is_leap`, `PEND.CHECK` and the count of draws at most. -/
theorem advance_eq (s : State) :
    advance s =
      { s with rf := putTime s.rf (advance s).time, isLeap := (advance s).isLeap
               pend := { s.pend with check := (advance s).pend.check }, draws := (advance s).draws } := by
  cases h : s.time.inDomain
  · rw [advance_outOfDomain h]; simp [State.time, putTime]
  · rw [advance_inDomain h]; simp [State.time, putTime]

/-! ## The Alarm Engine -/

/-- A mask has the given bits below 6. -/
theorem maskOf_bit (f : Fin 6 → Bool) (k : Fin 6) : (maskOf f).getLsbD k.val = f k := by
  fin_cases k <;> simp only [maskOf, BitVec.getLsbD_append] <;> simp

/-- A mask has no bit from 6 on. -/
theorem maskOf_high (f : Fin 6 → Bool) : maskOf f &&& 0xC0 = 0 := by
  have h (a b c d e g : Bool) :
      (BitVec.ofBool false ++ BitVec.ofBool false ++ BitVec.ofBool a ++ BitVec.ofBool b ++ BitVec.ofBool c ++ BitVec.ofBool d
        ++ BitVec.ofBool e ++ BitVec.ofBool g : BitVec 8) &&& 0xC0 = 0 := by revert a b c d e g; decide
  exact h _ _ _ _ _ _

/-- `CHECK_ALARMS` leaves every slot but 30 alone (R150). -/
theorem checkAlarms_getElem (s : State) (i : Nat) (h : i < 31) (hne : i ≠ 30) : (checkAlarms s).rf[i] = s.rf[i] := by
  simp [checkAlarms, Ne.symm hne]

/-- `CHECK_ALARMS` ORs the matches into the flags (R140, R143). -/
theorem checkAlarms_flags (s : State) : (checkAlarms s).rf[30] = s.rf[30] ||| maskOf s.alarmMatch := by
  simp [checkAlarms]

/-- A dedicated line after `DRIVE_INTERRUPTS` (R146). -/
theorem driveInterrupts_ded (s : State) (k : Nat) (h : k < 6) :
    (driveInterrupts s).out.ded[k] = (s.out.ded[k] || (s.rf[28].getLsbD 7 && s.firing.getLsbD k)) := by
  simp [driveInterrupts]

/-! ## `PEND` and `DRAIN` -/

@[simp] theorem Pend.get_put_self (p : Pend) (x : PendAction) (v : Bool) : (p.put x v).get x = v := by cases x <;> rfl

theorem Pend.get_put_ne (p : Pend) {x y : PendAction} (h : y ≠ x) (v : Bool) : (p.put x v).get y = p.get y := by
  cases x <;> cases y <;> first | rfl | exact absurd rfl h

/-- The list of pending actions holds exactly those that are pending. -/
theorem Pend.mem_toList (p : Pend) (x : PendAction) : x ∈ p.toList ↔ p.get x = true := by
  unfold Pend.toList; rw [List.mem_filter]; cases x <;> simp

/-- `DRAIN` picks nothing when nothing is pending. -/
theorem pickAction_none {s : State} (h : s.pend.any = false) : pickAction s = none := by
  have hl : s.pend.toList = [] := by
    simp only [Pend.any, Bool.or_eq_false_iff] at h
    simp [Pend.toList, Pend.get, h]
  simp [pickAction, hl]

/-- What `DRAIN` picks is pending, and picking counts a draw at most (R166). -/
theorem pickAction_some {s s1 : State} {x : PendAction} (h : pickAction s = some (x, s1)) :
    s.pend.get x = true ∧ s1 = { s with draws := s1.draws } := by
  unfold pickAction at h
  split at h
  · cases h
  · rename_i y hy
    cases h
    exact ⟨(s.pend.mem_toList x).mp (hy ▸ List.mem_singleton.mpr rfl), rfl⟩
  · rename_i y z l hy
    simp only [Option.some.injEq, Prod.mk.injEq] at h
    obtain ⟨hx, rfl⟩ := h
    refine ⟨?_, rfl⟩
    split at hx
    · exact hx ▸ ‹_›
    · exact hx ▸ (s.pend.mem_toList y).mp (by rw [hy]; exact List.mem_cons_self)

/-- `DRAIN` picks something when something is pending. -/
theorem pickAction_isSome {s : State} (h : s.pend.any = true) : (pickAction s).isSome = true := by
  unfold pickAction
  split
  · rename_i hl
    have hn (x : PendAction) : s.pend.get x = false := by
      by_contra hx
      have := (s.pend.mem_toList x).mpr (by simpa using hx)
      rw [hl] at this; cases this
    have h1 := hn .assert; have h2 := hn .reset; have h3 := hn .advance; have h4 := hn .check
    simp_all [Pend.any, Pend.get]
  · rfl
  · rfl

end Sys2Proof.Machine
end

