-- ==== Sys2Proof/Laws/Ops.lean ====
section
/-!
SUPPORT. One lemma for each shared operation of the bus engine: what it can do.
-/

namespace Sys2Proof.Machine

/-! ## One byte of the offset space -/

theorem peek_of_lt (s : State) (o : Byte) (h : o.toNat < 31) : s.peek o = some s.rf[o.toNat] := by
  simp [State.peek, h]

theorem peek_of_ge (s : State) (o : Byte) (h : 31 ≤ o.toNat) : s.peek o = none := by
  simp [State.peek, Nat.not_lt.mpr h]

/-- Reading depends on the Register File alone. -/
theorem peek_congr {s t : State} (h : s.rf = t.rf) (o : Byte) : s.peek o = t.peek o := by
  simp [State.peek, h]

/-- A write is read back where there is a slot. -/
theorem peek_poke_self (s : State) (o v : Byte) (h : o.toNat < 31) : (s.poke o v).peek o = some v := by
  simp [State.peek, State.poke, h]

/-- A write leaves every other offset alone. -/
theorem peek_poke_ne (s : State) (o v a : Byte) (h : a ≠ o) : (s.poke o v).peek a = s.peek a := by
  have hn : o.toNat ≠ a.toNat := fun e => h (BitVec.eq_of_toNat_eq e.symm)
  by_cases ho : o.toNat < 31 <;> by_cases ha : a.toNat < 31 <;> simp [State.peek, State.poke, ho, ha, hn]

/-- A write changes the Register File alone. -/
theorem poke_eq (s : State) (o v : Byte) : s.poke o v = { s with rf := (s.poke o v).rf } := by
  by_cases h : o.toNat < 31 <;> simp [State.poke, h]

/-! ## Loads and stores -/

/-- The year-write hook may change the leap cache and nothing else. -/
theorem yearWriteHook_eq (o : Byte) (s : State) : yearWriteHook o s = { s with isLeap := (yearWriteHook o s).isLeap } := by
  unfold yearWriteHook; split <;> rfl

/-- Away from offset 6 the hook does nothing. -/
theorem yearWriteHook_of_ne {o : Byte} (h : o ≠ 6) (s : State) : yearWriteHook o s = s :=
  if_neg fun h6 => h h6.1

/-- A store changes the Register File and the leap cache at most. -/
theorem memWrite_eq (o b : Byte) (s : State) :
    memWrite o b s = { s with rf := (memWrite o b s).rf, isLeap := (memWrite o b s).isLeap } := by
  unfold memWrite
  split
  · rw [yearWriteHook_eq, poke_eq]
  · split
    · rw [poke_eq]
    · rfl

/-- A load gives the slot's byte, or above offset 30 the next free byte; it changes the count of draws at most. -/
theorem memRead_cases (o : Byte) (s : State) :
    (∃ h : o.toNat < 31, memRead o s = (s.rf[o.toNat], s)) ∨
    (31 ≤ o.toNat ∧ memRead o s = (Config.loadByte s.draws, { s with draws := s.draws + 1 })) := by
  by_cases h : o.toNat < 31
  · exact .inl ⟨h, by simp [memRead, State.peek, h]⟩
  · exact .inr ⟨Nat.not_lt.mp h, by simp [memRead, State.peek, h]⟩

/-- A load changes the count of draws at most. -/
theorem memRead_eq (o : Byte) (s : State) : (memRead o s).2 = { s with draws := (memRead o s).2.draws } := by
  obtain ⟨_, h⟩ | ⟨_, h⟩ := memRead_cases o s <;> rw [h]

/-! ## The callbacks -/

/-- Every byte is accepted (R220). -/
theorem onReceive_ok (b : Byte) (s : State) : (onReceive b s).1 = true := by
  unfold onReceive; split <;> rfl

/-- The receive callback: the offset byte loads the cursor, a data byte is stored and the cursor advances. -/
theorem onReceive_cases (b : Byte) (s : State) :
    (s.bytecnt = 0 ∧ onReceive b s = (true, { s with cursor := b, bytecnt := 1 })) ∨
    (s.bytecnt ≠ 0 ∧ onReceive b s = (true, { memWrite s.cursor b s with cursor := s.cursor + 1 })) := by
  by_cases h : s.bytecnt = 0
  · exact .inl ⟨h, by simp [onReceive, onReceiveOffset, rxPolicy, h]⟩
  · refine .inr ⟨h, ?_⟩
    have hc : (memWrite s.cursor b s).cursor = s.cursor := by rw [memWrite_eq]
    simp [onReceive, onReceiveData, rxPolicy, advanceCursor, h, hc]

/-- The transmit callback: the byte at the cursor, and the cursor advances. -/
theorem onTransmit_eq (s : State) :
    onTransmit s = ((memRead s.cursor s).1, { (memRead s.cursor s).2 with cursor := s.cursor + 1 }) := by
  have hc : (memRead s.cursor s).2.cursor = s.cursor := by rw [memRead_eq]
  simp [onTransmit, advanceCursor, hc]

/-- Fetching the next byte: it stands in `shreg`, the cursor has advanced, and the first data slot comes next. -/
theorem fetchByte_eq (s : State) :
    fetchByte s =
      { s with shreg := (memRead s.cursor s).1, cursor := s.cursor + 1, sub := .data, bitcnt := 0
               draws := (memRead s.cursor s).2.draws } := by
  unfold fetchByte
  rw [onTransmit_eq, memRead_eq]

/-- The bit shifted in stands in bit 0. -/
theorem shiftIn_bit0 (b : Byte) (m : Bool) : (shiftIn b m).getLsbD 0 = m := by
  simp only [shiftIn, BitVec.getLsbD_append]; cases m <;> rfl

/-- The two rows of a whole received byte agree with `RX.BIT` on its eighth slot (log 12). -/
theorem execRxBit_eighth_offset (m : Bool) (s : State) (h7 : s.bitcnt = 7) (h0 : s.bytecnt = 0) :
    execRxBit m s = execRxOffset (shiftIn s.shreg m) s := by
  simp only [execRxBit, execRxOffset, onReceive, shiftIn_bit0, putSlot_bytecnt, h7, h0, ↓reduceIte]

/-- As above, for a data byte. -/
theorem execRxBit_eighth_data (m : Bool) (s : State) (h7 : s.bitcnt = 7) (h0 : s.bytecnt ≠ 0) :
    execRxBit m s = execRxData (shiftIn s.shreg m) s := by
  simp only [execRxBit, execRxData, onReceive, shiftIn_bit0, putSlot_bytecnt, h7, h0, ↓reduceIte]

end Sys2Proof.Machine
end

