-- ==== Sys2Proof/Laws/PerInstr.lean ====
section
/-!
SUPPORT. Statements made for every operation, one lemma for each constructor.
-/

namespace Sys2Proof.Laws.EncodeClean

/-- The word of an operation has no reserved bit set. -/
def Statement (i : Instr) : Prop := (encode i).extractLsb' 9 3 = 0

theorem start : Statement .start := pack_reserved _ _
theorem stop : Statement .stop := pack_reserved _ _
theorem slotIdle (m : Bool) : Statement (.slotIdle m) := pack_reserved _ _
theorem slotAddr (a : BitVec 7) (d : Bool) : Statement (.slotAddr a d) := pack_reserved _ _
theorem addrAckW (a : SlaveAddr) (k : Bool) : Statement (.addrAckW a k) := pack_reserved _ _
theorem addrAckR (a : SlaveAddr) (k : Bool) : Statement (.addrAckR a k) := pack_reserved _ _
theorem addrNack (x : SlaveAddr) (d k : Bool) : Statement (.addrNack x d k) := pack_reserved _ _
theorem rxBit (m : Bool) : Statement (.rxBit m) := pack_reserved _ _
theorem rxOffset (o : Byte) : Statement (.rxOffset o) := pack_reserved _ _
theorem rxData (d : Byte) : Statement (.rxData d) := pack_reserved _ _
theorem rxAck (k : Bool) : Statement (.rxAck k) := pack_reserved _ _
theorem txBit (t : Bool) : Statement (.txBit t) := pack_reserved _ _
theorem txMack : Statement .txMack := pack_reserved _ _
theorem txMnack : Statement .txMnack := pack_reserved _ _
theorem tick (t : BitVec 5) : Statement (.tick t) := pack_reserved _ _
theorem drain (c a r t : Bool) : Statement (.drain c a r t) := pack_reserved _ _
theorem driveInterrupts : Statement .driveInterrupts := pack_reserved _ _
theorem resetInterrupts : Statement .resetInterrupts := pack_reserved _ _
theorem advance : Statement .advance := pack_reserved _ _
theorem checkAlarms : Statement .checkAlarms := pack_reserved _ _
theorem reset (s : Bool) : Statement (.reset s) := pack_reserved _ _

end Sys2Proof.Laws.EncodeClean
end

