-- ==== Sys2Proof/Laws/Select.lean ====
section
/-!
SUPPORT. What one step can do, in terms of the event it takes.
-/

namespace Sys2Proof.Machine

/-- With an event due, the step is what the event does. -/
theorem step_of_cons {s : State} {e : Input} {rest : List Input} (h : s.inputs = e :: rest) :
    step s = stepInput e { s with inputs := rest } := by
  simp [step, nextInput, h]

/-- With no event due and something pending, the deferred-work context runs. -/
theorem step_of_pending {s : State} (h : s.inputs = []) (hp : s.pend.any = true) : step s = stepInput (.drain none) s := by
  simp [step, nextInput, h, hp]

/-- With no event due and nothing pending, nothing happens. -/
theorem step_of_quiet {s : State} (h : s.inputs = []) (hp : s.pend.any = false) : step s = .next s := by
  simp [step, nextInput, h, hp]

/-- An event that selects no operation is used up without effect. -/
theorem stepInput_of_none {e : Input} {s : State} (h : selectWord e s = none) : stepInput e s = .next s := by
  simp [stepInput, h]

/-- An event whose word decodes runs the operation and what the step adds to it. -/
theorem stepInput_of_decoded {e : Input} {s : State} {w : OpWord} {i : Instr} (hw : selectWord e s = some w)
    (hi : decodeWord w = .ok i) : stepInput e s = mapNext (afterExec i) (exec i s) := by
  simp [stepInput, hw, runDecoded, hi]

@[simp] theorem mapNext_next (f : State → State) (s : State) : mapNext f (.next s) = .next (f s) := rfl

/-- The step adds nothing to an operation that is not an engine operation. -/
theorem afterExec_of_none {i : Instr} (h : i.action? = none) (s : State) : afterExec i s = s := by simp [afterExec, h]

/-- After an engine operation the step clears its flag. -/
theorem afterExec_of_action {i : Instr} {x : PendAction} (h : i.action? = some x) (s : State) :
    afterExec i s = clearPend x s := by simp [afterExec, h]

end Sys2Proof.Machine
end

