-- ==== Sys2Proof/Tests/Slice0.lean ====
section
/-!
SUPPORT. Tests. Expected values are from spec/95_test_vectors.md (V numbers) or from the rule named; the words are written out from
the patterns of spec/opcode_table.json. The last part shows, for every statement with hypotheses, values that meet them.
-/

namespace Sys2Proof.Tests

open Sys2Proof.Machine

/-! ## Decoding: format number, three zeros, the table's bits -/

theorem test_decode_start : decodeWord 0b0000_000_000000110#16 = .ok .start := by decide
theorem test_decode_stop : decodeWord 0b0000_000_000000101#16 = .ok .stop := by decide
theorem test_decode_slotIdle : decodeWord 0b0010_000_000000001#16 = .ok (.slotIdle true) := by decide
theorem test_decode_slotAddr : decodeWord 0b0011_000_011010001#16 = .ok (.slotAddr 0b1101000 true) := by decide
theorem test_decode_addrAckW : decodeWord 0b0100_000_110100001#16 = .ok (.addrAckW 0x68 true) := by decide
theorem test_decode_addrAckR : decodeWord 0b0100_000_110100011#16 = .ok (.addrAckR 0x68 true) := by decide
theorem test_decode_addrNack : decodeWord 0b0101_000_110100101#16 = .ok (.addrNack 0x69 false true) := by decide
theorem test_decode_rxBit : decodeWord 0b0110_000_000000001#16 = .ok (.rxBit true) := by decide
theorem test_decode_rxOffset : decodeWord 0b0111_000_000011100#16 = .ok (.rxOffset 0x1C) := by decide
theorem test_decode_rxData : decodeWord 0b1000_000_010010100#16 = .ok (.rxData 0x94) := by decide
theorem test_decode_rxAck : decodeWord 0b1001_000_000000001#16 = .ok (.rxAck true) := by decide
theorem test_decode_txBit : decodeWord 0b1010_000_000000001#16 = .ok (.txBit true) := by decide
theorem test_decode_txMack : decodeWord 0b0000_000_000000000#16 = .ok .txMack := by decide
theorem test_decode_txMnack : decodeWord 0b0001_000_000000001#16 = .ok .txMnack := by decide
theorem test_decode_tick : decodeWord 0b1011_000_000010000#16 = .ok (.tick 16) := by decide
theorem test_decode_drain : decodeWord 0b1100_000_000001001#16 = .ok (.drain true false false true) := by decide
theorem test_decode_driveInterrupts : decodeWord 0b0000_000_000000001#16 = .ok .driveInterrupts := by decide
theorem test_decode_resetInterrupts : decodeWord 0b0000_000_000000010#16 = .ok .resetInterrupts := by decide
theorem test_decode_advance : decodeWord 0b0000_000_000000100#16 = .ok .advance := by decide
theorem test_decode_checkAlarms : decodeWord 0b0000_000_000001000#16 = .ok .checkAlarms := by decide
theorem test_decode_reset : decodeWord 0b1101_000_000000001#16 = .ok (.reset true) := by decide

/-- The low byte stands first. -/
theorem test_decode_low_byte_first : decode [0x1C, 0x70, 0xAA] = .ok (.rxOffset 0x1C, [0xAA]) := by decide
/-- What the decoder rejects, each by its name. -/
theorem test_decode_rejects :
    decode [0x06] = .error .truncated ∧ decodeWord 0x0206 = .error .reservedBits ∧ decodeWord 0x0016 = .error .reservedBits
      ∧ decodeWord 0xF000 = .error .noSuchFormat ∧ decodeWord 0x0007 = .error .noSuchPattern
      ∧ decodeWord 0x1000 = .error .noSuchPattern := by decide

/-! ## Ill-formed operations, refused by the check and by the decoder (R105, R165) -/

theorem test_tick_phase_0_ill_formed :
    (Instr.tick 0).wellFormed = false ∧ decodeWord (encode (.tick 0)) = .error .noSuchPhase := by decide
theorem test_tick_phase_17_ill_formed :
    (Instr.tick 17).wellFormed = false ∧ decodeWord (encode (.tick 17)) = .error .noSuchPhase := by decide
theorem test_drain_of_nothing_ill_formed :
    (Instr.drain false false false false).wellFormed = false
      ∧ decodeWord (encode (.drain false false false false)) = .error .nothingPending := by decide

/-! ## One step of each operation -/

/-- The state after power-up, with the vectors' example address. -/
def base : State := { State.powerUp false with ownAddr := 0x68 }

/-- `base` with the given time registers. -/
def withTime (sec min hour dow date month year century : Byte) : State :=
  { base with rf := putTime base.rf ⟨sec, min, hour, dow, date, month, year, century⟩ }

/-- `base` in a phase of the bus engine. -/
def onBus (phase : Phase) (sub : Sub) (bitcnt : Fin 8) (shreg cursor : Byte) : State :=
  { base with phase := phase, sub := sub, bitcnt := bitcnt, shreg := shreg, cursor := cursor }

/-- The outcome is a next state with the given property. -/
def after (o : Host.Outcome State Fault Refusal) (p : State → Bool) : Bool :=
  match o with
  | .next t => p t
  | _ => false

/-- R182's example: three bits of a data byte are dropped. -/
theorem test_start_mid_byte :
    after (exec .start { onBus .receiverMode .data 3 0x05 5 with bytecnt := 1 })
      (fun t => t.phase == .addressPhase && t.bitcnt == 0 && t.bytecnt == 0 && t.cursor == 5
        && t.cond == some .protocolReset) = true := by decide
theorem test_start_from_idle_unlabelled : after (exec .start base) (fun t => t.phase == .addressPhase && t.cond == none) = true := by
  decide
/-- V85: the cursor stays. -/
theorem test_stop : after (exec .stop (onBus .receiverMode .ack 0 0x12 6)) (fun t => t.phase == .idle && t.cursor == 6) = true := by
  decide
/-- V88. -/
theorem test_slotIdle : after (exec (.slotIdle false) base) (fun t => t.phase == .idle && t.busOut == some ⟨true, false⟩) = true := by
  decide
/-- R185's example: the eighth bit of `11010000`. -/
theorem test_slotAddr_eighth :
    after (exec (.slotAddr 0b1101000 false) (onBus .addressPhase .data 7 0b1101000 0))
      (fun t => t.shreg == 0xD0 && t.phase == .addressCheck && t.bitcnt == 0) = true := by decide
/-- V80, ninth slot of D0. -/
theorem test_addrAckW :
    after (exec (.addrAckW 0x68 true) (onBus .addressCheck .data 0 0xD0 3))
      (fun t => t.phase == .receiverMode && t.busOut == some ⟨false, false⟩ && t.cursor == 3) = true := by decide
/-- V81, ninth slot of D1. -/
theorem test_addrAckR :
    after (exec (.addrAckR 0x68 true) { onBus .addressCheck .data 0 0xD1 0 with rf := base.rf.set 0 0x42 })
      (fun t => t.phase == .transmitterMode && t.shreg == 0x42 && t.cursor == 1) = true := by decide
/-- V83, ninth slot of D2. -/
theorem test_addrNack :
    after (exec (.addrNack 0x69 false true) (onBus .addressCheck .data 0 0xD2 9))
      (fun t => t.phase == .idle && t.busOut == some ⟨true, true⟩ && t.cond == some .addressMismatch && t.cursor == 9) = true := by
  decide
/-- R188's example: `0010101` and then a 1 deliver 0x2B. -/
theorem test_rxBit_eighth :
    after (exec (.rxBit true) (onBus .receiverMode .data 7 0b0010101 0))
      (fun t => t.cursor == 0x2B && t.bytecnt == 1 && t.sub == .ack) = true := by decide
/-- R211's example. -/
theorem test_rxOffset : after (exec (.rxOffset 0x1C) base) (fun t => t.cursor == 28 && t.bytecnt == 1 && t.rf == base.rf) = true := by
  decide
/-- V90: the keep mask. -/
theorem test_rxData_keep_mask :
    after (exec (.rxData 0x3E) { base with rf := base.rf.set 30 0x05, bytecnt := 1, cursor := 30 })
      (fun t => t.rf[30] == 0x04 && t.cursor == 31) = true := by decide
/-- V97: offset 26 keeps its value, the cursor advances. -/
theorem test_rxData_discarded :
    after (exec (.rxData 0x55) { base with bytecnt := 1, cursor := 26 }) (fun t => t.rf[26] == 0x00 && t.cursor == 27) = true := by
  decide
/-- V80, ninth slot of 00. -/
theorem test_rxAck :
    after (exec (.rxAck true) (onBus .receiverMode .ack 0 0x00 0)) (fun t => t.sub == .data && t.busOut == some ⟨false, false⟩)
      = true := by decide
/-- V81, second slot of 42: the bit is 1, and the last slot: the bit is 0. -/
theorem test_txBit_second :
    after (exec (.txBit true) (onBus .transmitterMode .data 1 0x42 1)) (fun t => t.busOut == some ⟨true, true⟩ && t.bitcnt == 2)
      = true := by decide
theorem test_txBit_last :
    after (exec (.txBit true) (onBus .transmitterMode .data 7 0x42 1)) (fun t => t.busOut == some ⟨false, false⟩ && t.sub == .ack)
      = true := by decide
/-- R191's example. -/
theorem test_txMack :
    after (exec .txMack { onBus .transmitterMode .ack 0 0x42 1 with rf := base.rf.set 1 0x17 })
      (fun t => t.shreg == 0x17 && t.cursor == 2 && t.sub == .data) = true := by decide
/-- V81, the master's NACK. -/
theorem test_txMnack :
    after (exec .txMnack (onBus .transmitterMode .ack 0 0x17 2)) (fun t => t.phase == .idle && t.cursor == 2) = true := by decide
/-- V70, lines 12 and 16. -/
theorem test_tick_12 :
    after (exec (.tick 12) { base with tick := 11 }) (fun t => t.tick == 12 && t.pend.advance && t.out.sqw == false) = true := by decide
theorem test_tick_16 :
    after (exec (.tick 16) { base with tick := 15, out := { base.out with sqw := true } })
      (fun t => t.tick == 0 && t.out.sqw == false && t.pend.any == false) = true := by decide
/-- V74: the check that ADVANCE raised survives. -/
theorem test_drain_advance :
    after (exec (.drain false true false false)
        { withTime 0x59 0x09 0 6 1 1 0 0x20 with pend := { assert := false, reset := false, advance := true, check := false } })
      (fun t => t.rf[0] == 0x00 && t.rf[1] == 0x10 && t.pend.check && t.pend.advance == false) = true := by decide
/-- V100: INT and INT3, not INT1. -/
theorem test_driveInterrupts :
    after (exec .driveInterrupts { base with rf := ((base.rf.set 30 0x05).set 29 0x04).set 28 0x80 })
      (fun t => t.out.int && t.out.ded == #v[false, false, true, false, false, false]) = true := by decide
/-- V110: the square wave stays. -/
theorem test_resetInterrupts :
    after (exec .resetInterrupts { base with out := { sqw := true, int := true, ded := #v[true, false, true, false, false, true] } })
      (fun t => t.out.sqw && t.out.int == false && t.out.ded == #v[false, false, false, false, false, false]) = true := by decide
/-- V38: year 99 to 00, century 19 to 20. -/
theorem test_advance_century :
    after (exec .advance (withTime 0x59 0x59 0x23 1 0x32 0x12 0x99 0x19))
      (fun t => t.time == ⟨0, 0, 0, 2, 1, 1, 0, 0x20⟩ && t.isLeap == false && t.pend.check) = true := by decide
/-- V23: 30 February of a leap year is reached. -/
theorem test_advance_leap_february :
    after (exec .advance { withTime 0x59 0x59 0x23 2 0x29 2 4 0x20 with isLeap := true })
      (fun t => t.time == ⟨0, 0, 0, 3, 0x30, 2, 4, 0x20⟩) = true := by decide
/-- V64 with an old flag kept (V52): Wednesday is bit 2. -/
theorem test_checkAlarms :
    after (exec .checkAlarms
        { withTime 0 0x30 0x14 3 1 1 0 0x20 with
          rf := ((((withTime 0 0x30 0x14 3 1 1 0 0x20).rf.set 8 0x30).set 9 0x94).set 10 0x04).set 30 0x02 })
      (fun t => t.rf[30] == 0x03) = true := by decide
/-- V62: the marker is absent. -/
theorem test_checkAlarms_no_marker :
    after (exec .checkAlarms
        { withTime 0 0x30 0x14 3 1 1 0 0x20 with
          rf := (((withTime 0 0x30 0x14 3 1 1 0 0x20).rf.set 8 0x30).set 9 0x14).set 10 0x80 })
      (fun t => t.rf[30] == 0x00) = true := by decide
/-- R58. -/
theorem test_reset :
    after (exec (.reset true) { base with rf := base.rf.set 3 0x02, cursor := 9 })
      (fun t => t.rf[3] == 0x06 && t.rf[7] == 0x20 && t.cursor == 0) = true := by decide

/-! ## Hypotheses that are met -/

/-- A block in its domain at 23:59:59 of the given date. -/
def midnight (dow date month year century : Byte) : State := withTime 0x59 0x59 0x23 dow date month year century

theorem witness_DecodeOfEncode : (Instr.tick 16).wellFormed = true ∧ (Instr.tick 1).wellFormed = true := by decide
theorem witness_EncodeOfDecode : decodeWord 0xB010 = .ok (.tick 16) ∧ decodeWord 0x51FF = .ok (.addrNack 0x7F true true) := by decide
theorem witness_StepRunsDecodedOperation :
    ({ base with inputs := [.tick] }).inputs = .tick :: [] ∧ selectWord .tick { base with inputs := [] } = some 0xB001
      ∧ decodeWord 0xB001 = .ok (.tick 1) := by decide
theorem witness_SelectedWordIsTheTablesOperation :
    operationOf (.slot true) (onBus .addressCheck .data 0 0xD1 0) = some (.addrAckR 0x68 true)
      ∧ operationOf .tick { base with tick := 15 } = some (.tick 16) := by decide
theorem witness_PresentedOperationRuns :
    (Instr.drain true false false false).wellFormed = true ∧ (Instr.tick 16).wellFormed = true := by decide
theorem witness_AddressBitShiftedIn :
    (onBus .addressPhase .data 7 0 0).bitcnt = 7 ∧ (onBus .addressPhase .data 6 0 0).bitcnt ≠ 7
      ∧ (onBus .addressPhase .data 0 0 0).bitcnt ≠ 7 := by decide
theorem witness_AddressByteAssembled :
    let s := { onBus .addressPhase .data 0 0 0 with inputs := byteSlots 0xD0 ++ [Input.slot true] }
    s.powered = true ∧ s.phase = .addressPhase ∧ s.bitcnt = 0 ∧ s.inputs = byteSlots 0xD0 ++ [Input.slot true] := by decide
theorem witness_ReadAddressFetchesByte :
    ({ base with cursor := 30 }).cursor.toNat < 31 ∧ 31 ≤ ({ base with cursor := 31 }).cursor.toNat
      ∧ 31 ≤ ({ base with cursor := 255 }).cursor.toNat := by decide
theorem witness_OtherAddressIgnored :
    let s := { base with inputs := addressedSlots 0xD2 [false, true] ++ [] }
    s.powered = true ∧ (0xD2 : Byte).extractLsb' 1 7 ≠ s.ownAddr ∧ s.inputs = addressedSlots 0xD2 [false, true] ++ [] := by decide
theorem witness_ReceivedBitShiftedIn :
    let s := onBus .receiverMode .data 7 0x15 5
    (onBus .receiverMode .data 6 0x15 5).bitcnt ≠ 7 ∧ (s.bitcnt = 7 ∧ s.bytecnt = 0)
      ∧ (({ s with bytecnt := 1 }).bitcnt = 7 ∧ ({ s with bytecnt := 1 }).bytecnt = 1) := by decide
/-- The offsets at the ends of the policy's ranges, and an offset that is not the cursor. -/
theorem witness_DataByteStoredUnderPolicy :
    (25 : Byte).toNat ≤ 25 ∧ ¬(26 : Byte).toNat ≤ 25 ∧ ¬(27 : Byte).toNat ≤ 25 ∧ (29 : Byte) ≠ 30 ∧ ¬(31 : Byte).toNat ≤ 25
      ∧ (31 : Byte) ≠ 30 ∧ (31 : Byte) ≠ base.cursor := by decide
theorem witness_ReceivedByteAcknowledged : base.rxok = true ∧ ({ base with rxok := false }).rxok = false := by decide
theorem witness_TransmittedBitDriven :
    (onBus .transmitterMode .data 7 0x42 0).bitcnt = 7 ∧ (onBus .transmitterMode .data 6 0x42 0).bitcnt ≠ 7
      ∧ (onBus .transmitterMode .data 0 0x42 0).bitcnt ≠ 7 := by decide
theorem witness_MasterAckFetchesByte :
    (onBus .transmitterMode .ack 0 0 30).cursor.toNat < 31 ∧ 31 ≤ (onBus .transmitterMode .ack 0 0 31).cursor.toNat := by decide
theorem witness_NextByteReadFromCursor :
    let s := { onBus .transmitterMode .ack 0 0 30 with inputs := .slot false :: (List.replicate 8 (Input.slot true) ++ []) }
    s.powered = true ∧ s.phase = .transmitterMode ∧ s.sub = .ack
      ∧ s.inputs = .slot false :: (List.replicate 8 (Input.slot true) ++ []) ∧ 7 < 8 ∧ s.cursor.toNat < 31 := by decide
theorem witness_WriteTransactionStoresInOrder :
    let s := { base with inputs := writeTransaction base.ownAddr 0x19 [0xAA, 0xBB] ++ [] }
    s.powered = true ∧ s.inputs = writeTransaction s.ownAddr 0x19 [0xAA, 0xBB] ++ [] := by decide
theorem witness_ReadTransactionAdvancesCursor :
    let s := { base with inputs := readTransaction base.ownAddr 1 ++ [] }
    s.powered = true ∧ s.inputs = readTransaction s.ownAddr 1 ++ [] := by decide
/-- A stored byte, a loaded offset, a fetched byte, and the byte count at `START`. -/
theorem witness_BusOperationFrame :
    (Instr.rxData 0x12).isBus = true ∧ (Instr.rxOffset 0xFF).isBus = true ∧ Instr.txMack.isBus = true ∧ Instr.start.isBus = true
      ∧ after (exec (.rxData 0x12) { base with bytecnt := 1, cursor := 5 }) (fun t => t.rf != base.rf && t.cursor == 6) = true
      ∧ after (exec (.rxOffset 0xFF) base) (fun t => t.cursor != base.cursor && t.bytecnt != base.bytecnt) = true
      ∧ after (exec .txMack { base with cursor := 255 }) (fun t => t.cursor == 0) = true
      ∧ after (exec .start { base with bytecnt := 1 }) (fun t => t.bytecnt == 0) = true
      ∧ (30 : Byte) ≠ 5 := by decide
theorem witness_OnlyAlarmCheckRaisesFlags :
    Instr.stop ≠ .checkAlarms ∧ (∀ c a r p, Instr.stop = .drain c a r p → base.pend.check = false)
      ∧ after (exec .stop base) (fun _ => true) = true := ⟨by decide, fun _ _ _ _ _ => rfl, by decide⟩
theorem witness_EngineOperationFrame :
    Instr.advance.isBus = false ∧ (∀ v, Instr.advance ≠ .reset v) ∧ after (exec .advance base) (fun _ => true) = true
      ∧ 8 ≤ (8 : Byte).toNat ∧ (8 : Byte) ≠ 30 ∧ 8 ≤ (255 : Byte).toNat := ⟨by decide, by decide, by decide, by decide⟩
theorem witness_HiddenStateInvisibleOnBus :
    Instr.stop.isBus = true ∧ SameOnBus base { base with tick := 5, isLeap := true }
      ∧ after (exec .stop base) (fun _ => true) = true
      ∧ after (exec .stop { base with tick := 5, isLeap := true }) (fun _ => true) = true :=
  ⟨by decide, ⟨rfl, rfl, rfl, rfl, rfl, rfl, rfl, rfl, rfl, rfl, rfl, rfl, rfl, rfl⟩, by decide, by decide⟩
theorem witness_BcdIncrementByDigits :
    isBcd 0x98 = true ∧ (0x98 : Byte) ≠ 0x99 ∧ isBcd 0x99 = true ∧ isBcd 0x00 = true := by decide
theorem witness_LeapTestYears : isBcd 0x96 = true ∧ isBcd 0x99 = true ∧ isBcd 0x00 = true := by decide
theorem witness_AdvanceAddsOneSecond :
    base.time.inDomain = true ∧ (midnight 7 0x32 0x12 0x99 0x99).time.inDomain = true ∧ 8 ≤ (8 : Byte).toNat := by decide
theorem witness_AdvanceBelowFiftyNine :
    let s := withTime 0x58 0x59 0x23 7 0x31 0x12 0x99 0x19
    s.time.inDomain = true ∧ val s.rf[0] ≤ 58 := by decide
theorem witness_SecondsRollRequestsCheck : (withTime 0x59 0 0 1 1 1 0 0).time.inDomain = true := by decide
/-- Every field changes, the leap cache too (V34 and V38 together). -/
theorem witness_CarryStopsAtFirstField :
    let s := { midnight 1 0x32 0x12 0x99 0x19 with isLeap := true }
    s.time.inDomain = true
      ∧ after (exec .advance s) (fun t => t.time.min != s.time.min && t.time.hour != s.time.hour && t.time.dow != s.time.dow
          && t.time.date != s.time.date && t.time.month != s.time.month && t.time.year != s.time.year && t.time.century != s.time.century
          && t.isLeap != s.isLeap) = true := by decide
theorem witness_WeekdayInLockStep :
    (midnight 7 0x31 0x01 0 0x20).time.inDomain = true ∧ (withTime 0x58 0x59 0x23 1 1 1 0 0x20).time.inDomain = true := by decide
/-- One date for each clause: 29 and 30 February, 31 April, 32 January, and 28 February, which does not roll. -/
theorem witness_DateRollsByStoredDate :
    (midnight 1 0x29 0x02 0 0x20).time.inDomain = true ∧ (midnight 1 0x30 0x02 0 0x20).time.inDomain = true
      ∧ (midnight 1 0x31 0x04 0 0x20).time.inDomain = true ∧ (midnight 1 0x32 0x01 0 0x20).time.inDomain = true
      ∧ (midnight 1 0x28 0x02 0 0x20).time.inDomain = true
      ∧ (midnight 1 0x28 0x02 0 0x20).rf[0] = 0x59 ∧ (midnight 1 0x28 0x02 0 0x20).rf[1] = 0x59
      ∧ (midnight 1 0x28 0x02 0 0x20).rf[2] = 0x23 := by decide
theorem witness_YearRollRefreshesLeapCache :
    let s := midnight 1 0x32 0x12 0x99 0x19
    s.time.inDomain = true ∧ s.rf[0] = 0x59 ∧ s.rf[1] = 0x59 ∧ s.rf[2] = 0x23 ∧ s.rf[4] = 0x32 ∧ s.rf[5] = 0x12
      ∧ (midnight 1 0x32 0x12 0x98 0x19).time.inDomain = true := by decide
theorem witness_AdvanceOutsideDomainFrame : (withTime 0x60 0 0 1 1 1 0 0).time.inDomain = false ∧ 8 ≤ (8 : Byte).toNat := by decide
theorem witness_CalendarKeptByEveryStep :
    let s := { base with inputs := [.tick] }
    CalendarReachable s.time s.isLeap ∧ ¬StoresTime s ∧ ∃ t, step s = .next t :=
  ⟨⟨by decide, by decide⟩, fun h => absurd h.2.1 (by decide), _, rfl⟩
theorem witness_CheckAlarmsSetsMatchingFlags :
    (1 ≤ (withTime 0 0 0 1 1 1 0 0).rf[3].toNat ∧ (withTime 0 0 0 1 1 1 0 0).rf[3].toNat ≤ 7)
      ∧ (1 ≤ (withTime 0 0 0 7 1 1 0 0).rf[3].toNat ∧ (withTime 0 0 0 7 1 1 0 0).rf[3].toNat ≤ 7) := by decide
/-- An offset other than 30, and weekdays at the ends of 1 to 7 and just outside them. -/
theorem witness_AlarmCheckNeverClears :
    (29 : Byte) ≠ 30 ∧ (31 : Byte) ≠ 30 ∧ 1 ≤ (withTime 0 0 0 1 1 1 0 0).rf[3].toNat ∧ (withTime 0 0 0 7 1 1 0 0).rf[3].toNat ≤ 7
      ∧ ¬1 ≤ (withTime 0 0 0 0 1 1 0 0).rf[3].toNat ∧ ¬(withTime 0 0 0 8 1 1 0 0).rf[3].toNat ≤ 7 := by decide
theorem witness_NoMarkerNoMatch :
    base.rf[2].getLsbD 7 = false ∧ base.rf[9 + 3 * (5 : Fin 6).val].getLsbD 7 = false
      ∧ after (exec .checkAlarms base) (fun _ => true) = true := by decide
theorem witness_SixteenTicksAreOneCycle :
    let s := { base with inputs := List.replicate 16 Input.tick ++ [Input.stop] }
    s.powered = true ∧ s.inputs = List.replicate 16 Input.tick ++ [Input.stop] := by decide
/-- `base` with the given actions pending. -/
def pending (assert reset advance check : Bool) : State := { base with pend := ⟨assert, reset, advance, check⟩ }
theorem witness_DrainServesOnePendingAction :
    (pending true true true true).pend.any = true ∧ (pending false false false true).pend.any = true := by decide
theorem witness_CheckRequestSurvivesDrain :
    let s := { pending false false true false with rf := (midnight 1 1 1 0 0).rf }
    s.time.inDomain = true ∧ s.rf[0] = 0x59
      ∧ s.pend = { assert := false, reset := false, advance := true, check := false } := by decide
theorem witness_DrainWithNothingPending : (pending false false false false).pend.any = false := by decide
theorem witness_ScheduleMayChooseAction :
    let s := { pending true false true false with inputs := [.drain (some .advance)] }
    s.powered = true ∧ s.inputs = .drain (some .advance) :: [] ∧ s.pend.get .advance = true := by decide
theorem witness_IdleContextDrainsAll : (pending true true true true).powered = true ∧ (pending true true true true).inputs = [] := by
  decide
theorem witness_EventsLostBeforePowerUp :
    let s := { base with powered := false, inputs := [.tick] }
    (s.inputs = .tick :: [] ∧ s.powered = false ∧ ∀ v, Input.tick ≠ .powerUp v)
      ∧ ({ s with inputs := [.powerUp true] }).inputs = .powerUp true :: [] ∧ base.powered = true := by decide
theorem witness_SoundKeptByEveryStep :
    let s := { base with ownAddr := Config.addrA, inputs := [.stop] }
    s.Sound ∧ ∃ t, step s = .next t :=
  ⟨⟨rfl, rfl, rfl, rfl, nofun, .inl rfl⟩, _, rfl⟩

end Sys2Proof.Tests
end

section
/-!
PROOFS. The operation map: the word that an event and the state select decodes to the operation of the table (R110), and what
one step can do in terms of that operation.
-/

namespace Sys2Proof.Machine

/-! ## The selected word decodes to the table's operation -/

/-- The bits of `shreg` that stay when a bit is shifted in. -/
theorem shiftIn_high (b : Byte) (m : Bool) : (shiftIn b m).extractLsb' 1 7 = b.extractLsb' 0 7 := by
  revert b m; decide

/-- A byte and a bit, taken apart as an address byte and its acknowledge slot. -/
theorem frame_parts (b : Byte) (m : Bool) :
    (b ++ BitVec.ofBool m : BitVec 9).extractLsb' 2 7 = addrOf b ∧ (b ++ BitVec.ofBool m : BitVec 9).getLsbD 1 = dirOf b
      ∧ (b ++ BitVec.ofBool m : BitVec 9).getLsbD 0 = m := by
  revert b m; decide

/-- A byte as the low bits of a pattern reaches its format's own decoder. -/
theorem narrow_byte (b : Byte) (k : Byte → Except Reject Instr) : narrow 8 (b.setWidth 9) k = k b := by
  rw [narrow_of_lt (by simp; omega), BitVec.setWidth_setWidth_of_le _ (by decide), BitVec.setWidth_eq]

/-- The word of an assembled address bit decodes to the address slot. -/
theorem decodeWord_addr (b : Byte) (m : Bool) :
    decodeWord (pack fmtAddr ((shiftIn b m).setWidth 9)) = .ok (.slotAddr (b.extractLsb' 0 7) m) := by
  have hformat : ∀ bits, decodeFormat fmtAddr bits =
      narrow 8 bits fun b => .ok (.slotAddr (b.extractLsb' 1 7) (b.getLsbD 0)) := fun _ => rfl
  rw [decodeWord_pack, hformat, narrow_byte, shiftIn_high, shiftIn_bit0]

/-- The word of an address byte that matched decodes by its direction bit (R108, R187). -/
theorem decodeWord_match (b : Byte) (m : Bool) :
    decodeWord (pack fmtMatch (b ++ BitVec.ofBool m)) =
      .ok (if dirOf b then .addrAckR (addrOf b) m else .addrAckW (addrOf b) m) := by
  obtain ⟨haddr, hdir, hbit⟩ := frame_parts b m
  rw [decodeWord_pack]
  show decodeMatch _ = _
  rw [decodeMatch, haddr, hdir, hbit]
  split <;> rfl

/-- The word of an address byte that did not match. -/
theorem decodeWord_mismatch (b : Byte) (m : Bool) :
    decodeWord (pack fmtMismatch (b ++ BitVec.ofBool m)) = .ok (.addrNack (addrOf b) (dirOf b) m) := by
  obtain ⟨haddr, hdir, hbit⟩ := frame_parts b m
  rw [decodeWord_pack]
  show Except.ok (Instr.addrNack _ _ _) = _
  rw [haddr, hdir, hbit]

/-- The word of a whole received byte, offset or data. -/
theorem decodeWord_receivedByte (b : Byte) :
    decodeWord (pack fmtRxOffset (b.setWidth 9)) = .ok (.rxOffset b)
      ∧ decodeWord (pack fmtRxData (b.setWidth 9)) = .ok (.rxData b) := by
  rw [decodeWord_pack, decodeWord_pack]
  exact ⟨narrow_byte b fun b => .ok (.rxOffset b), narrow_byte b fun b => .ok (.rxData b)⟩

/-- The words of the rows whose only bit is the level of the slot. -/
theorem decodeWord_bitWord (m : Bool) :
    decodeWord (pack fmtIdle (bitWord m)) = .ok (.slotIdle m) ∧ decodeWord (pack fmtRxBit (bitWord m)) = .ok (.rxBit m)
      ∧ decodeWord (pack fmtRxAck (bitWord m)) = .ok (.rxAck m) ∧ decodeWord (pack fmtTxBit (bitWord m)) = .ok (.txBit m)
      ∧ decodeWord (pack fmtReset (bitWord m)) = .ok (.reset m) := by
  revert m; decide

/-- The words of the master's acknowledge and not-acknowledge (R191). -/
theorem decodeWord_masterAck (m : Bool) :
    decodeWord (if m then pack fmtMnack 1 else pack fmtFixed 0) = .ok (if m then .txMnack else .txMack) := by
  revert m; decide

/-- A slot's word decodes to the operation of the phase and sub-phase (R110, R184 to R191). -/
theorem decodeWord_slotWord (m : Bool) (s : State) : decodeWord (slotWord m s) = .ok (slotOperation m s) := by
  obtain ⟨hidle, hrx, hrxAck, htx, -⟩ := decodeWord_bitWord m
  unfold slotWord slotOperation
  cases s.phase with
  | idle => exact hidle
  | addressPhase => exact decodeWord_addr s.shreg m
  | addressCheck =>
    by_cases h : addrOf s.shreg = s.ownAddr
    · simp [addrMatches, h, decodeWord_match]
    · simp [addrMatches, h, decodeWord_mismatch]
  | receiverMode =>
    obtain ⟨hoffset, hdata⟩ := decodeWord_receivedByte (shiftIn s.shreg m)
    cases s.sub with
    | data =>
      by_cases h7 : s.bitcnt = 7
      · by_cases h0 : s.bytecnt = 0
        · simp [h7, h0, hoffset]
        · simp [h7, h0, hdata]
      · simp [h7, hrx]
    | ack => exact hrxAck
  | transmitterMode =>
    cases s.sub with
    | data => exact htx
    | ack => exact decodeWord_masterAck m

/-- The word of a chosen action decodes to its engine operation (R106). -/
theorem decodeWord_chosenWord (x : PendAction) : decodeWord (chosenWord x) = .ok x.instr := by
  cases x <;> decide

/-- The word of the tick phase decodes to `TICK` (R105). -/
theorem decodeWord_tickWord (n : Fin 16) :
    decodeWord (pack fmtTick (BitVec.ofNat 9 (n.val + 1))) = .ok (.tick (BitVec.ofNat 5 (n.val + 1))) := by
  revert n; decide

/-- The word of the pending flags decodes to `DRAIN` when one is set (R106, R165). -/
theorem decodeWord_drainWord (p : Pend) (h : p.any = true) :
    decodeWord (pack fmtDrain (flagWord p.check p.advance p.reset p.assert)) =
      .ok (.drain p.check p.advance p.reset p.assert) := by
  obtain ⟨t, r, a, c⟩ := p
  revert h; revert t r a c; decide

/-- R110 in a running block. -/
theorem decodeWord_runningWord (e : Input) (s : State) (hp : s.powered = true) :
    (runningWord e s).map decodeWord = (operationOf e s).map Except.ok := by
  cases e with
  | start => simp only [runningWord, operationOf, hp]; decide
  | stop => simp only [runningWord, operationOf, hp]; decide
  | slot m => simp [runningWord, operationOf, hp, decodeWord_slotWord]
  | tick => simp [runningWord, operationOf, hp, decodeWord_tickWord]
  | drain choice =>
    cases choice with
    | none => cases h : s.pend.any <;> simp [runningWord, operationOf, hp, h, decodeWord_drainWord]
    | some x => cases h : s.pend.get x <;> simp [runningWord, operationOf, hp, h, decodeWord_chosenWord]
  | powerUp v => simp [runningWord, operationOf, hp]

/-- R260 before power-up: `RESET` alone. -/
theorem decodeWord_unpoweredWord (e : Input) (s : State) (hp : s.powered = false) :
    (unpoweredWord e).map decodeWord = (operationOf e s).map Except.ok := by
  cases e with
  | powerUp v => simp [unpoweredWord, operationOf, hp, decodeWord_bitWord]
  | drain choice => cases choice <;> simp [unpoweredWord, operationOf, hp]
  | start | stop | slot | tick => simp [unpoweredWord, operationOf, hp]

/-- The word that an event and the state select decodes to the operation of the table (R110). -/
theorem decodeWord_selectWord (e : Input) (s : State) :
    (selectWord e s).map decodeWord = (operationOf e s).map Except.ok := by
  unfold selectWord
  split
  · exact decodeWord_runningWord e s ‹_›
  · exact decodeWord_unpoweredWord e s (by simpa using ‹¬s.powered = true›)

/-! ## One step by the table's operation -/

/-- An event that enables an operation runs it. -/
theorem stepInput_of_operation {e : Input} {s : State} {i : Instr} (h : operationOf e s = some i) :
    stepInput e s = mapNext (afterExec i) (exec i s) := by
  have hw := decodeWord_selectWord e s
  rw [h, Option.map_some, Option.map_eq_some_iff] at hw
  obtain ⟨w, hw, hi⟩ := hw
  exact stepInput_of_decoded hw hi

/-- An event that enables no operation is used up without effect. -/
theorem stepInput_of_noOperation {e : Input} {s : State} (h : operationOf e s = none) : stepInput e s = .next s := by
  have hw := decodeWord_selectWord e s
  rw [h, Option.map_none, Option.map_eq_none_iff] at hw
  exact stepInput_of_none hw

/-- The next event is the head of the schedule, or the deferred-work context's own (log 10). -/
theorem nextInput_cases {s s1 : State} {e : Input} (h : nextInput s = some (e, s1)) :
    (s.inputs = e :: s1.inputs ∧ s1 = { s with inputs := s1.inputs }) ∨ (s.inputs = [] ∧ e = .drain none ∧ s1 = s) := by
  unfold nextInput at h
  split at h
  · rename_i hs
    cases h
    exact .inl ⟨hs, rfl⟩
  · rename_i hs
    split at h
    · cases h
      exact .inr ⟨hs, rfl, rfl⟩
    · cases h

/-- Taking the next event changes the schedule at most. -/
theorem nextInput_eq {s s1 : State} {e : Input} (h : nextInput s = some (e, s1)) : s1 = { s with inputs := s1.inputs } := by
  obtain ⟨_, h1⟩ | ⟨_, _, h1⟩ := nextInput_cases h
  · exact h1
  · rw [h1]

/-- A next state under `mapNext` comes from a next state. -/
theorem mapNext_eq_next {f : State → State} {o : Host.Outcome State Fault Refusal} {t : State}
    (h : mapNext f o = .next t) : ∃ u, o = .next u ∧ t = f u := by
  cases o with
  | next u => cases h; exact ⟨u, rfl, rfl⟩
  | fault r => cases h
  | refused r => cases h

/-- What one step can do: use up an event without effect, or run the operation that the next event enables and add what follows
an engine operation. -/
theorem step_cases {s t : State} (h : step s = .next t) :
    t = { s with inputs := t.inputs } ∨
    ∃ e s1 i u, nextInput s = some (e, s1) ∧ operationOf e s1 = some i ∧ exec i s1 = .next u ∧ t = afterExec i u := by
  unfold step at h
  split at h
  · rename_i e s1 hn
    cases ho : operationOf e s1 with
    | none =>
      rw [stepInput_of_noOperation ho] at h
      cases h
      exact .inl (nextInput_eq hn)
    | some i =>
      rw [stepInput_of_operation ho] at h
      obtain ⟨u, hu, ht⟩ := mapNext_eq_next h
      exact .inr ⟨e, s1, i, u, hn, ho, hu, ht⟩
  · cases h
    exact .inl rfl

/-- After an operation the step may clear a pending flag and changes nothing else (R165). -/
theorem afterExec_eq (i : Instr) (s : State) : afterExec i s = { s with pend := (afterExec i s).pend } := by
  unfold afterExec; split <;> rfl

end Sys2Proof.Machine
end

section
/-!
PROOFS. What an operation does to the Register File and the leap cache: five effects cover every operation, so that an invariant
of the registers is five small goals.
-/

namespace Sys2Proof.Machine

/-! ## Slots of the Register File under a host store (R213 to R217) -/

theorem poke_getElem_ne {o : Byte} {i : Nat} (hi : i < 31) (hne : o.toNat ≠ i) (v : Byte) (s : State) :
    (s.poke o v).rf[i] = s.rf[i] := by
  unfold State.poke
  split
  · simp [Vector.getElem_set_ne, hne]
  · rfl

theorem yearWriteHook_rf (o : Byte) (s : State) : (yearWriteHook o s).rf = s.rf := by
  rw [yearWriteHook_eq]

/-- What a store does, by the offset's policy. -/
theorem memWrite_cases (o b : Byte) (s : State) :
    (storable o = true ∧ memWrite o b s = yearWriteHook o (s.poke o b)) ∨
    (o = 30 ∧ memWrite o b s = s.poke 30 (keepMask b s.rf[30])) ∨
    (storable o = false ∧ o ≠ 30 ∧ memWrite o b s = s) := by
  unfold memWrite
  split
  · exact .inl ⟨‹_›, rfl⟩
  · rename_i hs
    split
    · exact .inr (.inl ⟨‹_›, rfl⟩)
    · exact .inr (.inr ⟨by simpa using hs, ‹_›, rfl⟩)

/-- A store leaves every slot but the one addressed. -/
theorem memWrite_getElem_ne {o : Byte} {i : Nat} (hi : i < 31) (hne : o.toNat ≠ i) (b : Byte) (s : State) :
    (memWrite o b s).rf[i] = s.rf[i] := by
  obtain ⟨_, h⟩ | ⟨rfl, h⟩ | ⟨_, _, h⟩ := memWrite_cases o b s
  · simp only [h, yearWriteHook_rf, poke_getElem_ne hi hne]
  · simp only [h, poke_getElem_ne hi hne]
  · simp only [h]

/-- A store that the policy discards leaves the state alone (R216). -/
theorem memWrite_of_discarded {o : Byte} (hs : storable o = false) (h30 : o ≠ 30) (b : Byte) (s : State) :
    memWrite o b s = s := by
  obtain ⟨h, _⟩ | ⟨h, _⟩ | ⟨_, _, h⟩ := memWrite_cases o b s
  · rw [hs] at h; cases h
  · exact absurd h h30
  · exact h

/-- Offsets 26 and 27 keep their byte under every store (R216). -/
theorem memWrite_unused {i : Nat} (hi : i = 26 ∨ i = 27) (o b : Byte) (s : State) :
    (memWrite o b s).rf[i]'(by omega) = s.rf[i]'(by omega) := by
  by_cases hne : o.toNat = i
  · have ho : o = 26 ∨ o = 27 := hi.imp (fun h => BitVec.eq_of_toNat_eq (hne.trans h)) fun h => BitVec.eq_of_toNat_eq (hne.trans h)
    have hs : storable o = false ∧ o ≠ 30 := by rcases ho with rfl | rfl <;> decide
    simp only [memWrite_of_discarded hs.1 hs.2]
  · exact memWrite_getElem_ne _ hne b s

/-- A store keeps the flags of offset 30, or those that its byte selects (R215). -/
theorem memWrite_flags (o b : Byte) (s : State) :
    (memWrite o b s).rf[30] = s.rf[30] ∨ (memWrite o b s).rf[30] = b &&& s.rf[30] := by
  by_cases h30 : o = 30
  · subst h30
    exact .inr (by simp [memWrite, storable, State.poke, keepMask])
  · exact .inl (memWrite_getElem_ne _ (fun h => h30 (BitVec.eq_of_toNat_eq h)) b s)

/-- A store from offset 8 on leaves the time registers and the leap cache alone. -/
theorem memWrite_time {o : Byte} (ho : 8 ≤ o.toNat) (b : Byte) (s : State) :
    (memWrite o b s).time = s.time ∧ (memWrite o b s).isLeap = s.isLeap := by
  have hslot (i : Nat) (hi : i < 8) : (memWrite o b s).rf[i] = s.rf[i] := memWrite_getElem_ne _ (by omega) b s
  have h6 : o ≠ 6 := by rintro rfl; exact absurd ho (by decide)
  constructor
  · simp [State.time, hslot]
  · obtain ⟨_, h⟩ | ⟨_, h⟩ | ⟨_, _, h⟩ := memWrite_cases o b s
    · rw [h, yearWriteHook_of_ne h6, poke_eq]
    · rw [h, poke_eq]
    · rw [h]

/-- A store does not depend on the outputs of the slot. -/
theorem memWrite_putSlot (o b : Byte) (m d : Bool) (s : State) :
    memWrite o b (putSlot m d s) = putSlot m d (memWrite o b s) := by
  simp only [memWrite, yearWriteHook, State.poke, putSlot]
  split_ifs <;> rfl

/-! ## The five effects -/

/-- The operation delivers the data byte `b` (R188, R212). -/
inductive StoresByte (s : State) (b : Byte) : Instr → Prop
  | whole : StoresByte s b (.rxData b)
  | eighth (m : Bool) : s.bitcnt = 7 → s.bytecnt ≠ 0 → b = shiftIn s.shreg m → StoresByte s b (.rxBit m)

/-- What an operation can do to the Register File and the leap cache. The count of draws is free, since a `DRAIN` may use one
before it runs its action (R166, log 9). -/
inductive RegisterEffect (i : Instr) (s t : State) : Prop
  /-- They stay. -/
  | unchanged : t.rf = s.rf → t.isLeap = s.isLeap → RegisterEffect i s t
  /-- A data byte is stored at the cursor (R212). -/
  | stored (b : Byte) : StoresByte s b i → t.rf = (memWrite s.cursor b s).rf → t.isLeap = (memWrite s.cursor b s).isLeap →
      RegisterEffect i s t
  /-- The time advances (R120). -/
  | advanced (n : Nat) : t.rf = (advance { s with draws := n }).rf → t.isLeap = (advance { s with draws := n }).isLeap →
      RegisterEffect i s t
  /-- The alarms are checked (R140). -/
  | checked (n : Nat) : (i = .checkAlarms ∨ ∃ c a r p, i = .drain c a r p ∧ s.pend.check = true) →
      t.rf = (checkAlarms { s with draws := n }).rf → t.isLeap = s.isLeap → RegisterEffect i s t
  /-- They take their reset values (R50, R51, R260). -/
  | reset : t.rf = rfReset → t.isLeap = false → RegisterEffect i s t

/-- The engine operation of an action is executed as `DRAIN` runs it (R165). -/
theorem exec_actionInstr (x : PendAction) (s : State) : exec x.instr s = .next (runAction x s) := by
  cases x <;> rfl

/-- What `DRAIN` can do: nothing, or serve a pending action, perhaps after a draw (R165, R166). -/
theorem execDrain_cases {c a r p : Bool} {s t : State} (h : exec (.drain c a r p) s = .next t) :
    t = s ∨ ∃ x n, s.pend.get x = true ∧ t = serve x { s with draws := n } := by
  change execDrain c a r p s = _ at h
  unfold execDrain at h
  split at h
  · rename_i x s1 hpick
    obtain ⟨hx, hs1⟩ := pickAction_some hpick
    cases h
    exact .inr ⟨x, s1.draws, hx, by rw [← hs1]⟩
  · cases h
    exact .inl rfl

/-- Clearing a pending flag afterwards leaves the effect as it is. -/
theorem RegisterEffect.clearPend {i : Instr} {s t : State} (h : RegisterEffect i s t) (x : PendAction) :
    RegisterEffect i s (clearPend x t) := by
  cases h with
  | unchanged hrf hleap => exact .unchanged hrf hleap
  | stored b hb hrf hleap => exact .stored b hb hrf hleap
  | advanced n hrf hleap => exact .advanced n hrf hleap
  | checked n hi hrf hleap => exact .checked n hi hrf hleap
  | reset hrf hleap => exact .reset hrf hleap

/-- An engine operation, run under `i` when `i` may check the alarms. -/
theorem registerEffect_runAction {i : Instr} {s : State} {x : PendAction} (n : Nat)
    (hi : x = .check → i = .checkAlarms ∨ ∃ c a r p, i = .drain c a r p ∧ s.pend.check = true) :
    RegisterEffect i s (runAction x { s with draws := n }) := by
  cases x with
  | assert => exact .unchanged rfl rfl
  | reset => exact .unchanged rfl rfl
  | advance => exact .advanced n rfl rfl
  | check => exact .checked n (hi rfl) rfl rfl

/-- Fetching the next byte leaves the Register File and the leap cache alone. -/
theorem fetchByte_registers (s : State) : (fetchByte s).rf = s.rf ∧ (fetchByte s).isLeap = s.isLeap := by
  rw [fetchByte_eq]; exact ⟨rfl, rfl⟩

/-- The effect of a data byte (R212). -/
theorem registerEffect_rxData {i : Instr} {d : Byte} {s t : State} (hi : StoresByte s d i) (h : exec (.rxData d) s = .next t) :
    RegisterEffect i s t := by
  cases h
  refine .stored d hi ?_ ?_ <;> simp [onReceiveData, memWrite_putSlot]

/-- The effect of a received bit: none before the eighth, then that of the offset byte or of the data byte (R188). -/
theorem registerEffect_rxBit {m : Bool} {s t : State} (h : exec (.rxBit m) s = .next t) : RegisterEffect (.rxBit m) s t := by
  change execRxBit m s = _ at h
  by_cases h7 : s.bitcnt = 7
  · by_cases h0 : s.bytecnt = 0
    · rw [execRxBit_eighth_offset m s h7 h0] at h
      cases h
      exact .unchanged rfl rfl
    · rw [execRxBit_eighth_data m s h7 h0] at h
      exact registerEffect_rxData (.eighth m h7 h0 rfl) h
  · simp only [execRxBit, h7, ↓reduceIte] at h
    cases h
    exact .unchanged rfl rfl

/-- The effect of `DRAIN` is that of the action it serves. -/
theorem registerEffect_drain {c a r p : Bool} {s t : State} (h : exec (.drain c a r p) s = .next t) :
    RegisterEffect (.drain c a r p) s t := by
  obtain rfl | ⟨x, n, hx, rfl⟩ := execDrain_cases h
  · exact .unchanged rfl rfl
  · exact (registerEffect_runAction n fun hc => .inr ⟨c, a, r, p, rfl, by simpa [hc, Pend.get] using hx⟩).clearPend x

/-- Every operation has one of the five effects. -/
theorem exec_registerEffect {i : Instr} {s t : State} (h : exec i s = .next t) : RegisterEffect i s t := by
  cases i with
  | rxData d => exact registerEffect_rxData .whole h
  | rxBit m => exact registerEffect_rxBit h
  | drain c a r p => exact registerEffect_drain h
  | advance => cases h; exact .advanced s.draws rfl rfl
  | checkAlarms => cases h; exact .checked s.draws (.inl rfl) rfl rfl
  | reset v => cases h; exact .reset rfl rfl
  | addrAckR a k => cases h; exact .unchanged (fetchByte_registers _).1 (fetchByte_registers _).2
  | txMack => cases h; exact .unchanged (fetchByte_registers _).1 (fetchByte_registers _).2
  | start => cases h; refine .unchanged ?_ ?_ <;> (unfold startTransaction; split <;> rfl)
  | slotAddr a d => cases h; refine .unchanged ?_ ?_ <;> (split <;> rfl)
  | rxAck k => cases h; refine .unchanged ?_ ?_ <;> (split <;> rfl)
  | txBit m => cases h; refine .unchanged ?_ ?_ <;> (split <;> rfl)
  | stop | slotIdle | addrAckW | addrNack | rxOffset | txMnack | tick | driveInterrupts | resetInterrupts =>
    cases h; exact .unchanged rfl rfl

end Sys2Proof.Machine
end

section
/-!
PROOFS. BCD fields in a range, the carry chain of `ADVANCE` on them, and the calendar invariant (R48).
-/

namespace Sys2Proof.Machine

/-! ## BCD fields (R10, R121) -/

theorem tens_ofDigits {t u : Nat} (ht : t < 16) (hu : u < 16) : tens (ofDigits t u) = t := by
  simp only [tens, ofDigits, BitVec.toNat_ofNat]; omega

theorem units_ofDigits {t u : Nat} (hu : u < 16) : units (ofDigits t u) = u := by
  simp only [units, ofDigits, BitVec.toNat_ofNat]; omega

theorem isBcd_iff (b : Byte) : isBcd b = true ↔ tens b ≤ 9 ∧ units b ≤ 9 := by simp [isBcd]

/-- A BCD byte is the BCD form of its value. -/
theorem eq_bcd_val {b : Byte} (hb : isBcd b = true) : b = bcd (val b) := by
  obtain ⟨ht, hu⟩ := (isBcd_iff b).mp hb
  apply BitVec.eq_of_toNat_eq
  simp only [tens, units] at ht hu
  simp only [bcd, val, ofDigits, tens, units, BitVec.toNat_ofNat]
  omega

/-- Below 99 the increment adds one and stays BCD (R121). -/
theorem bcdInc_of_val_lt {b : Byte} (hb : isBcd b = true) (h : val b < 99) :
    isBcd (bcdInc b) = true ∧ val (bcdInc b) = val b + 1 := by
  obtain ⟨ht, hu⟩ := (isBcd_iff b).mp hb
  simp only [val] at h
  rw [isBcd_iff, val, val, bcdInc]
  split
  · rw [tens_ofDigits (by omega) (by omega), units_ofDigits (by omega)]; omega
  · rw [tens_ofDigits (by omega) (by omega), units_ofDigits (by omega)]; omega

/-- A BCD byte whose value is from `lo` to `hi`. -/
structure InRange (lo hi : Nat) (b : Byte) : Prop where
  digits : isBcd b = true
  lower : lo ≤ val b
  upper : val b ≤ hi

/-- A value that is not the last of its range increments within the range. -/
theorem InRange.inc {lo hi : Nat} {b : Byte} (h : InRange lo hi b) (hhi : hi ≤ 99) (hne : b ≠ bcd hi) :
    InRange lo hi (bcdInc b) := by
  have hval : val b ≠ hi := fun hv => hne (hv ▸ eq_bcd_val h.digits)
  have hupper := h.upper
  have hlower := h.lower
  obtain ⟨hbcd, hinc⟩ := bcdInc_of_val_lt h.digits (by omega)
  exact ⟨hbcd, by omega, by omega⟩

/-- A field whose rollover constant follows the last value of its range stays in the range (R122 to R130). -/
theorem InRange.roll {lo hi : Nat} {rollover first b : Byte} (h : InRange lo hi b) (hhi : hi ≤ 99)
    (hroll : bcdInc (bcd hi) = rollover) (hfirst : InRange lo hi first) :
    InRange lo hi (rollStep rollover first b).1 := by
  unfold rollStep
  split
  · exact hfirst
  · rename_i hne
    exact h.inc hhi fun hb => hne (hb ▸ hroll)

/-- A step that runs only on a carry keeps what the field and the stepped field have in common. -/
theorem onCarry_keeps {P : Byte → Prop} {step : Byte → Byte × Bool} {b : Byte} (c : Bool) (hb : P b) (hstep : P (step b).1) :
    P (onCarry c step b).1 := by
  cases c
  · exact hb
  · exact hstep

/-! ## The domain and the date limit (R47, R48) -/

/-- The domain, field by field (R47). -/
structure TimeRegs.FieldsInRange (t : TimeRegs) : Prop where
  sec : InRange 0 59 t.sec
  min : InRange 0 59 t.min
  hour : InRange 0 23 t.hour
  dow : 1 ≤ t.dow.toNat ∧ t.dow.toNat ≤ 7
  date : InRange 1 32 t.date
  month : InRange 1 12 t.month
  year : InRange 0 99 t.year
  century : InRange 0 99 t.century

/-- A BCD byte is at most 99. -/
theorem inRange_of_isBcd {b : Byte} (h : isBcd b = true) : InRange 0 99 b := by
  obtain ⟨ht, hu⟩ := (isBcd_iff b).mp h
  exact ⟨h, Nat.zero_le _, by rw [val]; omega⟩

theorem inDomain_iff (t : TimeRegs) : t.inDomain = true ↔ t.FieldsInRange := by
  simp only [TimeRegs.inDomain, Bool.and_eq_true, decide_eq_true_eq]
  constructor
  · rintro ⟨⟨⟨⟨⟨⟨⟨⟨hs, hs'⟩, hm, hm'⟩, hh, hh'⟩, hd⟩, ⟨ha, ha'⟩, ha''⟩, ⟨ho, ho'⟩, ho''⟩, hy⟩, hc⟩
    exact ⟨⟨hs, Nat.zero_le _, hs'⟩, ⟨hm, Nat.zero_le _, hm'⟩, ⟨hh, Nat.zero_le _, hh'⟩, hd, ⟨ha, ha', ha''⟩, ⟨ho, ho', ho''⟩,
      inRange_of_isBcd hy, inRange_of_isBcd hc⟩
  · intro h
    exact ⟨⟨⟨⟨⟨⟨⟨⟨h.sec.digits, h.sec.upper⟩, h.min.digits, h.min.upper⟩, h.hour.digits, h.hour.upper⟩, h.dow⟩,
      ⟨h.date.digits, h.date.lower⟩, h.date.upper⟩, ⟨h.month.digits, h.month.lower⟩, h.month.upper⟩, h.year.digits⟩, h.century.digits⟩

/-- Every month has a limit of 29 to 32. -/
theorem maxDate_bounds (mo : Byte) (leap : Bool) : 29 ≤ maxDate mo leap ∧ maxDate mo leap ≤ 32 := by
  unfold maxDate; split_ifs <;> decide

/-- A calendar state: every field in its range and the date from 1 to its month's limit. -/
theorem calendarReachable_iff (t : TimeRegs) (leap : Bool) :
    CalendarReachable t leap ↔ t.FieldsInRange ∧ InRange 1 (maxDate t.month leap) t.date := by
  rw [CalendarReachable, inDomain_iff]
  exact and_congr_right fun h => ⟨fun hd => ⟨h.date.digits, h.date.lower, hd⟩, fun hd => hd.upper⟩

/-- The last date of a month meets its rollover constant (R127). -/
theorem dateRolls_at_maxDate {mo : Byte} (h : InRange 1 12 mo) (leap : Bool) :
    dateRolls (bcd (maxDate mo leap)) mo leap = true := by
  have hlower := h.lower
  have hupper := h.upper
  rw [eq_bcd_val h.digits]
  generalize val mo = n at *
  interval_cases n <;> cases leap <;> decide

/-- A date that does not roll increments within its month (R127, R134 under PRE). -/
theorem InRange.date_inc {d mo : Byte} {leap : Bool} (hmo : InRange 1 12 mo) (hd : InRange 1 (maxDate mo leap) d)
    (hroll : dateRolls d mo leap = false) : InRange 1 (maxDate mo leap) (bcdInc d) := by
  refine hd.inc ((maxDate_bounds mo leap).2.trans (by decide)) fun h => ?_
  rw [h, dateRolls_at_maxDate hmo] at hroll
  cases hroll

/-- The weekday stays in 1 to 7 (R126). -/
theorem dowStep_range {w : Byte} (h : 1 ≤ w.toNat ∧ w.toNat ≤ 7) : 1 ≤ (dowStep w).toNat ∧ (dowStep w).toNat ≤ 7 := by
  unfold dowStep
  split <;> bv_omega

/-! ## `ADVANCE` keeps the calendar -/

/-- On a carry the date rolls by the stored date: this hardware's reading (R127, log 18). -/
theorem onCarry_true_dateStep (d mo : Byte) (leap : Bool) :
    onCarry true (dateStep Config.dateRollCompare · mo leap) d =
      if dateRolls d mo leap then (0x01, true) else (bcdInc d, false) := rfl

/-- The date's step of `ADVANCE`: it ends the month, or it keeps to the month's limit and carries nothing (R127). -/
theorem date_onCarry_cases {d mo : Byte} {leap : Bool} (c : Bool) (hmo : InRange 1 12 mo)
    (hd : InRange 1 (maxDate mo leap) d) :
    onCarry c (dateStep Config.dateRollCompare · mo leap) d = (0x01, true) ∨
    ∃ d', onCarry c (dateStep Config.dateRollCompare · mo leap) d = (d', false) ∧ InRange 1 (maxDate mo leap) d' := by
  cases c with
  | false => exact .inr ⟨d, rfl, hd⟩
  | true =>
    rw [onCarry_true_dateStep]
    cases hroll : dateRolls d mo leap with
    | true => exact .inl rfl
    | false => exact .inr ⟨bcdInc d, rfl, hmo.date_inc hd hroll⟩

/-- The first of a month is within the limit of every month. -/
theorem inRange_firstDate {n : Nat} (h : 29 ≤ n) : InRange 1 n 0x01 :=
  ⟨by decide, by decide, Nat.le_trans (by decide) h⟩

/-- The date after `ADVANCE` keeps to the limit of the month and the leap cache after `ADVANCE` (R127, R128): the month and the
leap cache change only when the date has returned to the first. -/
theorem advanceTime_date {t : TimeRegs} {leap : Bool} (h : t.FieldsInRange) (hd : InRange 1 (maxDate t.month leap) t.date) :
    InRange 1 (maxDate (advanceTime t leap).time.month (advanceTime t leap).isLeap) (advanceTime t leap).time.date := by
  simp only [advanceTime]
  generalize (onCarry _ hourStep t.hour).2 = c
  obtain hroll | ⟨d', hkeep, hd'⟩ := date_onCarry_cases c h.month hd
  · rw [hroll]
    exact inRange_firstDate (maxDate_bounds _ _).1
  · rw [hkeep]
    exact hd'

/-- Every field stays in its range under `ADVANCE` (R122 to R130). -/
theorem advanceTime_fieldsInRange {t : TimeRegs} {leap : Bool} (h : t.FieldsInRange)
    (hd : InRange 1 (maxDate t.month leap) t.date) : (advanceTime t leap).time.FieldsInRange where
  sec := h.sec.roll (by decide) (by decide) ⟨by decide, by decide, by decide⟩
  min := onCarry_keeps _ h.min (h.min.roll (by decide) (by decide) ⟨by decide, by decide, by decide⟩)
  hour := onCarry_keeps _ h.hour (h.hour.roll (by decide) (by decide) ⟨by decide, by decide, by decide⟩)
  dow := by
    simp only [advanceTime]
    split
    · exact dowStep_range h.dow
    · exact h.dow
  date :=
    have hdate := advanceTime_date h hd
    ⟨hdate.digits, hdate.lower, hdate.upper.trans (maxDate_bounds _ _).2⟩
  month := onCarry_keeps _ h.month (h.month.roll (by decide) (by decide) ⟨by decide, by decide, by decide⟩)
  year := onCarry_keeps _ h.year (h.year.roll (by decide) (by decide) ⟨by decide, by decide, by decide⟩)
  century := by
    simp only [advanceTime]
    split
    · exact h.century.roll (by decide) (by decide) ⟨by decide, by decide, by decide⟩
    · exact h.century

/-- One second later a calendar state is a calendar state (R48, R135). -/
theorem advanceTime_calendarReachable {t : TimeRegs} {leap : Bool} (h : CalendarReachable t leap) :
    CalendarReachable (advanceTime t leap).time (advanceTime t leap).isLeap := by
  obtain ⟨hfields, hdate⟩ := (calendarReachable_iff t leap).mp h
  exact (calendarReachable_iff _ _).mpr ⟨advanceTime_fieldsInRange hfields hdate, advanceTime_date hfields hdate⟩

/-- `ADVANCE` in a calendar state (R120): the domain holds, so the carry chain runs. -/
theorem advance_calendarReachable {s : State} (h : CalendarReachable s.time s.isLeap) :
    CalendarReachable (advance s).time (advance s).isLeap := by
  rw [advance_inDomain h.1]
  change CalendarReachable (State.time { s with rf := putTime s.rf _ }) _
  rw [time_putTime]
  exact advanceTime_calendarReachable h

/-! ## The calendar invariant -/

/-- The time registers depend on the Register File alone. -/
theorem time_congr {s t : State} (h : t.rf = s.rf) : t.time = s.time := by
  simp only [State.time, h]

/-- The reset values are a calendar state (R48, R50). -/
theorem calendarReachable_of_rfReset {s : State} (hrf : s.rf = rfReset) (hleap : s.isLeap = false) :
    CalendarReachable s.time s.isLeap := by
  rw [hleap, time_congr (s := State.powerUp false) hrf]
  exact ⟨by decide, by decide⟩

/-- `CHECK_ALARMS` leaves the time registers alone. -/
theorem checkAlarms_time (s : State) : (checkAlarms s).time = s.time := by
  have hslot (i : Nat) (hi : i < 8) : (checkAlarms s).rf[i] = s.rf[i] := checkAlarms_getElem s i _ (by omega)
  simp [State.time, hslot]

/-- An operation keeps a calendar state, unless it stores a byte at one of the offsets 0 to 7. -/
theorem exec_calendarReachable {i : Instr} {s t : State} (h : exec i s = .next t)
    (hstore : ∀ b, StoresByte s b i → 8 ≤ s.cursor.toNat) (hs : CalendarReachable s.time s.isLeap) :
    CalendarReachable t.time t.isLeap := by
  cases exec_registerEffect h with
  | unchanged hrf hleap => rwa [time_congr hrf, hleap]
  | stored b hb hrf hleap =>
    obtain ⟨htime, hisLeap⟩ := memWrite_time (hstore b hb) b s
    rwa [time_congr hrf, hleap, htime, hisLeap]
  | advanced n hrf hleap =>
    rw [time_congr hrf, hleap]
    exact advance_calendarReachable (s := { s with draws := n }) hs
  | checked n _ hrf hleap => rwa [time_congr hrf, hleap, checkAlarms_time]
  | reset hrf hleap => exact calendarReachable_of_rfReset hrf hleap

/-- A slot stores a byte only as the eighth slot of a data byte in ReceiverMode (R188, R212). -/
theorem slotOperation_storesByte {m : Bool} {s : State} {b : Byte} (hb : StoresByte s b (slotOperation m s)) :
    s.phase = .receiverMode ∧ s.sub = .data ∧ s.bitcnt = 7 ∧ s.bytecnt = 1 := by
  unfold slotOperation at hb
  split at hb
  · cases hb
  · cases hb
  · split at hb
    · split at hb <;> cases hb
    · cases hb
  · rename_i hphase hsub
    split at hb
    · rename_i h7
      split at hb
      · cases hb
      · rename_i h0
        exact ⟨hphase, hsub, h7, Fin.eq_one_of_ne_zero _ h0⟩
    · rename_i h7
      cases hb with
      | eighth _ h7' => exact absurd h7' h7
  · cases hb
  · cases hb
  · split at hb <;> cases hb

/-- An event enables the store of a byte only as a slot in a running block (R110). -/
theorem operationOf_storesByte {e : Input} {s : State} {i : Instr} {b : Byte} (h : operationOf e s = some i)
    (hb : StoresByte s b i) : s.powered = true ∧ ∃ m, e = .slot m ∧ i = slotOperation m s := by
  cases e with
  | slot m =>
    simp only [operationOf, Option.ite_none_right_eq_some, Option.some.injEq] at h
    exact ⟨h.1, m, rfl, h.2.symm⟩
  | drain choice =>
    cases choice with
    | none =>
      simp only [operationOf, Option.ite_none_right_eq_some, Option.some.injEq] at h
      obtain ⟨_, rfl⟩ := h
      cases hb
    | some x =>
      simp only [operationOf, Option.ite_none_right_eq_some, Option.some.injEq] at h
      obtain ⟨_, rfl⟩ := h
      cases x <;> cases hb
  | start | stop | tick =>
    simp only [operationOf, Option.ite_none_right_eq_some, Option.some.injEq] at h
    obtain ⟨_, rfl⟩ := h
    cases hb
  | powerUp v =>
    simp only [operationOf, Option.ite_none_left_eq_some, Option.some.injEq] at h
    obtain ⟨_, rfl⟩ := h
    cases hb

/-- The next step stores at offsets 0 to 7 when the operation that it runs does. -/
theorem storesTime_of_storesByte {e : Input} {s s1 : State} {i : Instr} {b : Byte} (hn : nextInput s = some (e, s1))
    (ho : operationOf e s1 = some i) (hb : StoresByte s1 b i) (hc : s1.cursor.toNat ≤ 7) : StoresTime s := by
  obtain ⟨hpow, m, rfl, rfl⟩ := operationOf_storesByte ho hb
  obtain ⟨hphase, hsub, hbit, hbyte⟩ := slotOperation_storesByte hb
  obtain ⟨hin, hs1⟩ | ⟨_, he, _⟩ := nextInput_cases hn
  · rw [hs1] at hpow hphase hsub hbit hbyte hc
    exact ⟨hpow, hphase, hsub, hbit, hbyte, hc, m, _, hin⟩
  · cases he

/-- Settles O42, by the five effects of an operation on the registers; the carry chain keeps the calendar. -/
theorem calendarKeptByEveryStep : Obligations.CalendarKeptByEveryStep := by
  intro s t hs hstore h
  obtain ht | ⟨e, s1, i, u, hn, ho, hu, ht⟩ := step_cases h
  · rw [ht]; exact hs
  · have hs1 : CalendarReachable s1.time s1.isLeap := by rw [nextInput_eq hn]; exact hs
    have hcursor (b : Byte) (hb : StoresByte s1 b i) : 8 ≤ s1.cursor.toNat := by
      by_contra hc
      exact hstore (storesTime_of_storesByte hn ho hb (by omega))
    have ht1 : CalendarReachable u.time u.isLeap := exec_calendarReachable hu hcursor hs1
    rw [ht, afterExec_eq]; exact ht1

/-- Settles O43. -/
theorem calendarAtReset : Obligations.CalendarAtReset := calendarReachable_of_rfReset (s := State.reset) rfl rfl

end Sys2Proof.Machine
end

section
/-!
PROOFS. The flags of offset 30: what can raise one (R49, R141), and the invariant of offsets 26, 27 and 30, the receive result
and the address (R34, R37, R44, R220, R232).
-/

namespace Sys2Proof.Machine

/-! ## Slots that an engine operation leaves alone -/

/-- `ADVANCE` leaves the slots from 8 on alone, whatever the domain (R120, R132). -/
theorem advance_getElem (s : State) {i : Nat} (h8 : 8 ≤ i) (h : i < 31) : (advance s).rf[i] = s.rf[i] := by
  rw [advance_eq]; exact putTime_getElem _ _ i h8 h

/-! ## Only CHECK_ALARMS raises a flag (R49) -/

/-- No bit of a byte is 1 where it is 0. -/
theorem raised_self (f : Byte) : f &&& ~~~f = 0 := by simp

/-- A keep mask raises no flag (R215). -/
theorem raised_keepMask (b f : Byte) : (b &&& f) &&& ~~~f = 0 := by
  rw [BitVec.and_assoc, raised_self]; exact BitVec.and_zero

/-- Settles O29, by the five effects of an operation on the registers: only the check of the alarms ORs into offset 30. -/
theorem onlyAlarmCheckRaisesFlags : Obligations.OnlyAlarmCheckRaisesFlags := by
  intro i s t hcheck hdrain h
  cases exec_registerEffect h with
  | unchanged hrf _ => simp only [hrf, raised_self]
  | stored b _ hrf _ =>
    obtain hf | hf := memWrite_flags s.cursor b s
    · simp only [hrf, hf, raised_self]
    · simp only [hrf, hf, raised_keepMask]
  | advanced n hrf _ => simp only [hrf, advance_getElem, raised_self, Nat.reduceLeDiff]
  | checked n hi _ _ =>
    obtain rfl | ⟨c, a, r, p, rfl, hp⟩ := hi
    · exact absurd rfl hcheck
    · rw [hdrain c a r p rfl] at hp; cases hp
  | reset hrf _ =>
    simp only [hrf]
    exact BitVec.zero_and

/-! ## The match-enable marker (R32, R141) -/

/-- Without the marker in the alarm's hour the hours differ, when the hour register has no bit 7. -/
theorem timeMatch_of_noMarker {s : State} {k : Fin 6} (hhour : s.rf[2].getLsbD 7 = false)
    (hmarker : (s.alarmHour k).getLsbD 7 = false) : s.timeMatch k = false := by
  have hne : s.rf[2] + 0x80 ≠ s.alarmHour k := by
    intro h
    have hbit (b : Byte) : (b + 0x80).getLsbD 7 = !b.getLsbD 7 := by revert b; decide
    have hflip := hbit s.rf[2]
    rw [h, hmarker, hhour] at hflip
    cases hflip
  rw [State.timeMatch, beq_eq_false_iff_ne.mpr hne, Bool.and_false]

/-- Settles O46: without the marker there is no match, and the flag is ORed with 0. -/
theorem noMarkerNoMatch : Obligations.NoMarkerNoMatch := by
  intro s t k hhour hmarker h
  cases h
  rw [checkAlarms_flags, BitVec.getLsbD_or, maskOf_bit, State.alarmMatch, timeMatch_of_noMarker hhour hmarker, Bool.false_and,
    Bool.or_false]

/-! ## The schedule's choice (R46, R165, R166) -/

/-- The action of an engine operation is the one it stands for. -/
theorem action?_instr (x : PendAction) : x.instr.action? = some x := by cases x <;> rfl

/-- Settles O54: the event names the action, its word decodes to the action's operation, and the step clears the flag. -/
theorem scheduleMayChooseAction : Obligations.ScheduleMayChooseAction := by
  intro s x rest hpow hin hpend
  have hop : operationOf (.drain (some x)) { s with inputs := rest } = some x.instr := by simp [operationOf, hpow, hpend]
  refine ⟨runAction x { s with inputs := rest }, exec_actionInstr x _, ?_⟩
  rw [step_of_cons hin, stepInput_of_operation hop, exec_actionInstr, mapNext_next, afterExec_of_action (action?_instr x)]
  rfl

/-! ## The registers of the invariant: offsets 26, 27 and 30 -/

/-- Offsets 26 and 27 and the high flag bits are 0 (R34, R37). -/
structure RegistersSound (s : State) : Prop where
  unused26 : s.rf[26] = 0
  unused27 : s.rf[27] = 0
  flagBits : s.rf[30] &&& 0xC0 = 0

/-- They depend on the Register File alone. -/
theorem RegistersSound.congr {s t : State} (hs : RegistersSound s) (hrf : t.rf = s.rf) : RegistersSound t := by
  obtain ⟨h26, h27, h30⟩ := hs
  exact ⟨by simpa only [hrf], by simpa only [hrf], by simpa only [hrf]⟩

theorem registersSound_powerUp (v : Bool) : RegistersSound (State.powerUp v) := ⟨rfl, rfl, by cases v <;> decide⟩

/-- Every operation keeps them. -/
theorem exec_registersSound {i : Instr} {s t : State} (h : exec i s = .next t) (hs : RegistersSound s) : RegistersSound t := by
  have ⟨h26, h27, h30⟩ := hs
  cases exec_registerEffect h with
  | unchanged hrf _ => exact hs.congr hrf
  | stored b _ hrf _ =>
    have hflags : (memWrite s.cursor b s).rf[30] &&& 0xC0 = 0 := by
      obtain hf | hf := memWrite_flags s.cursor b s
      · rw [hf, h30]
      · rw [hf, BitVec.and_assoc, h30]; exact BitVec.and_zero
    exact ⟨by simp only [hrf, memWrite_unused, h26, true_or], by simp only [hrf, memWrite_unused, h27, or_true],
      by simpa only [hrf] using hflags⟩
  | advanced n hrf _ =>
    have hslot (j : Nat) (h8 : 8 ≤ j) (hj : j < 31) : t.rf[j] = s.rf[j] := by
      simp only [hrf]; exact advance_getElem _ h8 hj
    exact ⟨by rw [hslot 26 (by decide), h26], by rw [hslot 27 (by decide), h27], by rw [hslot 30 (by decide), h30]⟩
  | checked n _ hrf _ =>
    have hslot (j : Nat) (hj : j < 31) (hne : j ≠ 30) : t.rf[j] = s.rf[j] := by
      simp only [hrf]; exact checkAlarms_getElem _ j hj hne
    have hflags : (checkAlarms { s with draws := n }).rf[30] &&& 0xC0 = 0 := by
      rw [checkAlarms_flags, BitVec.and_or_distrib_right, maskOf_high, h30]; rfl
    exact ⟨by rw [hslot 26 _ (by decide), h26], by rw [hslot 27 _ (by decide), h27], by simpa only [hrf] using hflags⟩
  | reset hrf _ => exact (registersSound_powerUp false).congr hrf

/-! ## The bus part of the invariant: the receive result, the condition and the address -/

/-- No byte has been rejected and the address is one of the two (R44, R220, R232). -/
structure BusSound (s : State) : Prop where
  received : s.rxok = true
  notRejected : s.cond ≠ some .writeRejected
  address : s.ownAddr = Config.addrA ∨ s.ownAddr = Config.addrB

/-- An engine operation leaves the bus engine alone (R249). -/
theorem runAction_bus (x : PendAction) (s : State) :
    (runAction x s).rxok = s.rxok ∧ (runAction x s).cond = s.cond ∧ (runAction x s).ownAddr = s.ownAddr := by
  cases x with
  | advance => rw [runAction, advance_eq]; exact ⟨rfl, rfl, rfl⟩
  | assert | reset | check => exact ⟨rfl, rfl, rfl⟩

/-- The strap selects one of the two addresses (R57). -/
theorem powerUp_address (v : Bool) : (State.powerUp v).ownAddr = Config.addrA ∨ (State.powerUp v).ownAddr = Config.addrB := by
  cases v
  · exact .inl rfl
  · exact .inr rfl

theorem busSound_powerUp (v : Bool) : BusSound (State.powerUp v) := ⟨rfl, nofun, powerUp_address v⟩

/-- The receive result, the condition and the address carry the bus part of the invariant over. -/
theorem BusSound.congr {s t : State} (hs : BusSound s) (hrxok : t.rxok = s.rxok) (hcond : t.cond = s.cond)
    (haddr : t.ownAddr = s.ownAddr) : BusSound t :=
  ⟨hrxok.trans hs.received, hcond ▸ hs.notRejected, haddr ▸ hs.address⟩

/-- A slot carries no condition. -/
theorem BusSound.putSlot {s : State} (hs : BusSound s) (m d : Bool) : BusSound (putSlot m d s) :=
  ⟨hs.received, nofun, hs.address⟩

/-- A received byte is accepted (R220). -/
theorem BusSound.finishByte {s : State} (hs : BusSound s) (b : Byte) {r : Bool × State} (hok : r.1 = true)
    (hcond : r.2.cond = none) (haddr : r.2.ownAddr = s.ownAddr) : BusSound (finishByte b r) :=
  ⟨hok, by simp [hcond], by simpa [haddr] using hs.address⟩

/-- Fetching a byte leaves the bus part of the invariant alone. -/
theorem BusSound.fetchByte {s : State} (hs : BusSound s) : BusSound (fetchByte s) := by
  rw [fetchByte_eq]; exact hs.congr rfl rfl rfl

/-- A data byte is accepted whatever its offset (R212, R220). -/
theorem exec_rxData_busSound {d : Byte} {s t : State} (h : exec (.rxData d) s = .next t) (hs : BusSound s) : BusSound t := by
  cases h
  refine hs.finishByte d rfl ?_ ?_ <;> rw [onReceiveData, memWrite_eq] <;> rfl

/-- A received bit keeps the bus part of the invariant: the eighth completes an offset byte or a data byte (R188). -/
theorem exec_rxBit_busSound {m : Bool} {s t : State} (h : exec (.rxBit m) s = .next t) (hs : BusSound s) : BusSound t := by
  change execRxBit m s = _ at h
  by_cases h7 : s.bitcnt = 7
  · by_cases h0 : s.bytecnt = 0
    · rw [execRxBit_eighth_offset m s h7 h0] at h
      cases h
      exact hs.finishByte _ rfl rfl rfl
    · rw [execRxBit_eighth_data m s h7 h0] at h
      exact exec_rxData_busSound h hs
  · simp only [execRxBit, h7, ↓reduceIte] at h
    cases h
    exact (hs.putSlot m true).congr rfl rfl rfl

/-- A start condition raises `ProtocolReset` at most (R233). -/
theorem startTransaction_cond (s : State) : (startTransaction s).cond ≠ some .writeRejected := by
  unfold startTransaction; split <;> nofun

/-- A start condition leaves the receive result and the address alone (R182). -/
theorem startTransaction_rxok_ownAddr (s : State) :
    (startTransaction s).rxok = s.rxok ∧ (startTransaction s).ownAddr = s.ownAddr := by
  unfold startTransaction; split <;> exact ⟨rfl, rfl⟩

/-- Every operation keeps the bus part of the invariant; since no byte is rejected, `RX.ACK` never aborts (R189, R232). -/
theorem exec_busSound {i : Instr} {s t : State} (h : exec i s = .next t) (hs : BusSound s) : BusSound t := by
  cases i with
  | start =>
    cases h
    obtain ⟨hrxok, haddr⟩ := startTransaction_rxok_ownAddr s
    exact ⟨hrxok.trans hs.received, startTransaction_cond s, haddr ▸ hs.address⟩
  | stop => cases h; exact ⟨hs.received, nofun, hs.address⟩
  | slotIdle m => cases h; exact hs.putSlot m true
  | addrAckW a k => cases h; exact (hs.putSlot k false).congr rfl rfl rfl
  | txMnack => cases h; exact (hs.putSlot true true).congr rfl rfl rfl
  | slotAddr a d => cases h; split <;> exact (hs.putSlot d true).congr rfl rfl rfl
  | txBit m => cases h; split <;> exact (hs.putSlot m (sendBit s.shreg s.bitcnt)).congr rfl rfl rfl
  | addrAckR a k => cases h; exact (hs.putSlot k false).fetchByte.congr rfl rfl rfl
  | txMack => cases h; exact (hs.putSlot false true).fetchByte
  | addrNack x d k => cases h; exact ⟨hs.received, nofun, hs.address⟩
  | rxBit m => exact exec_rxBit_busSound h hs
  | rxOffset o => cases h; exact hs.finishByte o rfl rfl rfl
  | rxData d => exact exec_rxData_busSound h hs
  | rxAck k =>
    change execRxAck k s = _ at h
    simp only [execRxAck, hs.received, ↓reduceIte] at h
    cases h
    exact (hs.putSlot k (!true)).congr rfl rfl rfl
  | drain c a r p =>
    obtain rfl | ⟨x, n, _, rfl⟩ := execDrain_cases h
    · exact hs
    · obtain ⟨hrxok, hcond, haddr⟩ := runAction_bus x { s with draws := n }
      exact hs.congr hrxok hcond haddr
  | advance =>
    cases h
    obtain ⟨hrxok, hcond, haddr⟩ := runAction_bus .advance s
    exact hs.congr hrxok hcond haddr
  | tick | driveInterrupts | resetInterrupts | checkAlarms => cases h; exact hs.congr rfl rfl rfl
  | reset v => cases h; exact (busSound_powerUp v).congr rfl rfl rfl

/-! ## The invariant -/

/-- The invariant is its two parts. -/
theorem sound_iff (s : State) : s.Sound ↔ RegistersSound s ∧ BusSound s :=
  ⟨fun h => ⟨⟨h.unused26, h.unused27, h.flagBits⟩, ⟨h.received, h.notRejected, h.address⟩⟩,
    fun ⟨hr, hb⟩ => ⟨hr.unused26, hr.unused27, hr.flagBits, hb.received, hb.notRejected, hb.address⟩⟩

/-- Every operation keeps the invariant. -/
theorem exec_sound {i : Instr} {s t : State} (h : exec i s = .next t) (hs : s.Sound) : t.Sound := by
  obtain ⟨hr, hb⟩ := (sound_iff s).mp hs
  exact (sound_iff t).mpr ⟨exec_registersSound h hr, exec_busSound h hb⟩

/-- The invariant does not speak of the schedule or of the pending flags. -/
theorem sound_of_eq {s t : State} (hs : s.Sound) (h : t = { s with pend := t.pend, inputs := t.inputs }) : t.Sound := by
  rw [h]
  exact ⟨hs.unused26, hs.unused27, hs.flagBits, hs.received, hs.notRejected, hs.address⟩

/-- Settles O59: a step uses up an event or runs an operation, and every operation keeps the invariant. -/
theorem soundKeptByEveryStep : Obligations.SoundKeptByEveryStep := by
  intro s t hs h
  obtain ht | ⟨e, s1, i, u, hn, _, hu, ht⟩ := step_cases h
  · exact sound_of_eq hs (by rw [ht])
  · have hs1 : s1.Sound := sound_of_eq hs (by rw [nextInput_eq hn])
    exact sound_of_eq (exec_sound hu hs1) (by rw [ht, afterExec_eq])

/-- Settles O60. -/
theorem soundAtReset : Obligations.SoundAtReset :=
  (sound_iff _).mpr ⟨registersSound_powerUp Config.addrSel, busSound_powerUp Config.addrSel⟩

/-! ## The reset state and power-up (R50 to R58, R260) -/

/-- Settles O56. -/
theorem resetStateValues : Obligations.ResetStateValues := by
  refine ⟨?_, rfl, rfl, rfl, rfl, rfl, ?_, rfl, rfl, rfl, powerUp_address Config.addrSel⟩
  · change ∀ (i : Nat) (h : i < 31), rfReset[i] = _
    decide
  · change ∀ (k : Nat) (h : k < 6), (Vector.replicate 6 false)[k] = false
    simp

/-- The two addresses differ: the distance between them is not 0 (R7). -/
theorem addrA_ne_addrB : Config.addrA ≠ Config.addrB := by
  have hgap : (if Config.addrGap = 0 then 1 else Config.addrGap) ≠ 0 := by
    split
    · decide
    · assumption
  intro h
  exact hgap (by simpa [Config.addrB] using h)

/-- Settles O57. -/
theorem powerUpSelectsAddress : Obligations.PowerUpSelectsAddress :=
  ⟨addrA_ne_addrB, fun v s => ⟨{ State.powerUp v with draws := s.draws, inputs := s.inputs }, rfl, rfl, rfl⟩⟩

end Sys2Proof.Machine
end

section
/-!
PROOFS. A host store is idempotent (R68, R213 to R217).
-/

namespace Sys2Proof.Machine

/-! ## Overwriting a slot -/

theorem poke_getElem_self {o : Byte} (h : o.toNat < 31) (v : Byte) (s : State) : (s.poke o v).rf[o.toNat] = v := by
  simp [State.poke, h]

/-- Of two writes to one offset the later one counts. -/
theorem poke_poke (o v w : Byte) (s : State) : (s.poke o v).poke o w = s.poke o w := by
  by_cases h : o.toNat < 31 <;> simp [State.poke, h]

/-- A keep mask applied to what it has kept changes nothing (R215). -/
theorem keepMask_keepMask (b flags : Byte) : keepMask b (keepMask b flags) = keepMask b flags := by
  simp only [keepMask, ← BitVec.and_assoc, BitVec.and_self]

/-- The hook refreshes the leap cache from the slot, so an earlier refresh is forgotten (R217). -/
theorem yearWriteHook_poke_yearWriteHook (o b : Byte) (s : State) :
    yearWriteHook o ((yearWriteHook o s).poke o b) = yearWriteHook o (s.poke o b) := by
  by_cases h : o = 6 ∧ Config.leapRefreshOnYearWrite = true
  · obtain ⟨rfl, hrefresh⟩ := h
    simp [yearWriteHook, State.poke, hrefresh]
  · simp only [yearWriteHook, if_neg h]

/-! ## The store by its offset's policy -/

theorem memWrite_of_storable {o : Byte} (h : storable o = true) (b : Byte) (s : State) :
    memWrite o b s = yearWriteHook o (s.poke o b) :=
  if_pos h

theorem memWrite_flagsOffset (b : Byte) (s : State) : memWrite 30 b s = s.poke 30 (keepMask b s.rf[30]) := rfl

/-- Settles O20, by the offset's policy: the later write overwrites the earlier one, the mask has nothing left to clear, or the
store is discarded. -/
theorem storingTwiceIsStoringOnce : Obligations.StoringTwiceIsStoringOnce := by
  intro o b s
  obtain ⟨hs, _⟩ | ⟨rfl, _⟩ | ⟨hs, h30, _⟩ := memWrite_cases o b s
  · calc memWrite o b (memWrite o b s)
        = yearWriteHook o ((yearWriteHook o (s.poke o b)).poke o b) := by simp only [memWrite_of_storable hs]
      _ = yearWriteHook o (s.poke o b) := by rw [yearWriteHook_poke_yearWriteHook, poke_poke]
      _ = memWrite o b s := (memWrite_of_storable hs b s).symm
  · have hflags : (s.poke 30 (keepMask b s.rf[30])).rf[30] = keepMask b s.rf[30] := poke_getElem_self (by decide) _ s
    simp only [memWrite_flagsOffset, hflags, keepMask_keepMask, poke_poke]
  · exact memWrite_of_discarded hs h30 b _

end Sys2Proof.Machine
end

section
/-!
PROOFS. Operation words and operations correspond: decoding what was encoded, and encoding what was decoded (R110, log 2).
-/

namespace Sys2Proof.Machine

/-! ## An address byte and its parts (R93, R108) -/

@[simp] theorem addrOf_append (a : SlaveAddr) (d : Bool) : addrOf (a ++ BitVec.ofBool d) = a := by
  revert a d; decide

@[simp] theorem dirOf_append (a : SlaveAddr) (d : Bool) : dirOf (a ++ BitVec.ofBool d) = d := by
  revert a d; decide

@[simp] theorem addrOf_append_dirOf (b : Byte) : addrOf b ++ BitVec.ofBool (dirOf b) = b := by
  revert b; decide

/-- A byte whose low bit arrives stands one place lower before it (R107). -/
theorem shiftIn_shiftRight_bit0 (b : Byte) : shiftIn (b >>> 1) (b.getLsbD 0) = b := by
  revert b; decide

/-- `DRAIN` is in the table when a flag is pending (R165). -/
theorem wellFormed_drain (p : Pend) : (Instr.drain p.check p.advance p.reset p.assert).wellFormed = p.any := by
  obtain ⟨t, r, a, c⟩ := p
  revert t r a c; decide

/-! ## Decoding what was encoded -/

/-- The word of an address slot, by the byte that its pattern shows. -/
theorem decodeWord_addrByte (b : Byte) :
    decodeWord (pack fmtAddr (b.setWidth 9)) = .ok (.slotAddr (addrOf b) (dirOf b)) := by
  rw [decodeWord_pack]
  exact narrow_byte b fun b => .ok (.slotAddr (addrOf b) (dirOf b))

/-- The word of an address byte that matched and its acknowledge slot, by the direction bit (R108). -/
theorem decodeWord_matchFrame (a : SlaveAddr) (d k : Bool) :
    decodeWord (pack fmtMatch (frameWord a d k)) = .ok (if d then .addrAckR a k else .addrAckW a k) := by
  rw [frameWord, decodeWord_match, addrOf_append, dirOf_append]

/-- The word of a tick phase, for the phases that the table shows (R105). -/
theorem decodeWord_tick {t : BitVec 5} (h : (Instr.tick t).wellFormed = true) :
    decodeWord (pack fmtTick (t.setWidth 9)) = .ok (.tick t) := by
  revert h; revert t; decide

/-- The word of an operation of the table decodes to it, every operand at every value. -/
theorem decodeWord_encode {i : Instr} (h : i.wellFormed = true) : decodeWord (encode i) = .ok i := by
  cases i with
  | start | stop | txMack | txMnack => decide
  | driveInterrupts => exact decodeWord_chosenWord .assert
  | resetInterrupts => exact decodeWord_chosenWord .reset
  | advance => exact decodeWord_chosenWord .advance
  | checkAlarms => exact decodeWord_chosenWord .check
  | slotIdle m | rxBit m | rxAck m | txBit m | reset m =>
    obtain ⟨hidle, hrxBit, hrxAck, htxBit, hreset⟩ := decodeWord_bitWord m
    assumption
  | slotAddr a d => rw [encode, decodeWord_addrByte, addrOf_append, dirOf_append]
  | addrAckW a k => exact decodeWord_matchFrame a false k
  | addrAckR a k => exact decodeWord_matchFrame a true k
  | addrNack x d k => rw [encode, frameWord, decodeWord_mismatch, addrOf_append, dirOf_append]
  | rxOffset o => exact (decodeWord_receivedByte o).1
  | rxData d => exact (decodeWord_receivedByte d).2
  | tick t => exact decodeWord_tick h
  | drain c a r t => exact decodeWord_drainWord ⟨t, r, a, c⟩ (wellFormed_drain ⟨t, r, a, c⟩ ▸ h)

/-- Settles O1: the two bytes make up the word again, and the word decodes. -/
theorem decodeOfEncode : Obligations.DecodeOfEncode := by
  intro i h rest
  rw [decode_wordBytes, decodeWord_encode h]
  rfl

/-! ## Encoding what was decoded -/

/-- The operation is in the table and the word is its encoding. -/
def IsWordOf (w : OpWord) (i : Instr) : Prop := i.wellFormed = true ∧ encode i = w

/-- A word without reserved bits is made of its format and its bits. -/
theorem pack_parts {w : OpWord} (h : w.extractLsb' 9 3 = 0) : pack (w.extractLsb' 12 4) (w.extractLsb' 0 9) = w := by
  rw [pack, ← h, BitVec.extractLsb'_append_extractLsb'_eq_extractLsb' (show 12 = 9 + 3 from rfl),
    BitVec.extractLsb'_append_extractLsb'_eq_extractLsb' (show 9 = 0 + 9 from rfl)]
  exact BitVec.extractLsb'_eq_self

/-- A narrow format: when its own decoder is undone by the encoder, so is the format, since the bits above are 0. -/
theorem narrow_isWordOf {n : Nat} {f : BitVec 4} {bits : BitVec 9} {k : BitVec n → Except Reject Instr} {i : Instr}
    (hk : ∀ p, k p = .ok i → IsWordOf (pack f (p.setWidth 9)) i) (h : narrow n bits k = .ok i) :
    IsWordOf (pack f bits) i := by
  unfold narrow at h
  split at h
  · rename_i hlt
    have hbits : (bits.setWidth n).setWidth 9 = bits := by
      apply BitVec.eq_of_toNat_eq
      rw [BitVec.toNat_setWidth, BitVec.toNat_setWidth, Nat.mod_eq_of_lt hlt, Nat.mod_eq_of_lt bits.isLt]
    simpa only [hbits] using hk _ h
  · cases h

/-- A format of one bit, the level of a slot or the strap. -/
theorem narrow_bit_isWordOf {f : BitVec 4} {bits : BitVec 9} {mk : Bool → Instr} {i : Instr}
    (hmk : ∀ b, IsWordOf (pack f (bitWord b)) (mk b)) (h : narrow 1 bits (fun p => .ok (mk (p.getLsbD 0))) = .ok i) :
    IsWordOf (pack f bits) i := by
  refine narrow_isWordOf (fun p hp => ?_) h
  have hbit : ∀ p : BitVec 1, bitWord (p.getLsbD 0) = p.setWidth 9 := by decide
  cases hp
  exact hbit p ▸ hmk _

/-- A format of one byte, as assembled from the slots. -/
theorem narrow_byte_isWordOf {f : BitVec 4} {bits : BitVec 9} {mk : Byte → Instr} {i : Instr}
    (hmk : ∀ b, IsWordOf (pack f (b.setWidth 9)) (mk b)) (h : narrow 8 bits (fun p => .ok (mk p)) = .ok i) :
    IsWordOf (pack f bits) i := by
  refine narrow_isWordOf (fun p hp => ?_) h
  cases hp
  exact hmk p

/-- Nine bits are the address byte and the acknowledge slot that they show. -/
theorem frameWord_parts (bits : BitVec 9) :
    frameWord (bits.extractLsb' 2 7) (bits.getLsbD 1) (bits.getLsbD 0) = bits := by
  revert bits; decide

theorem decodeFixed_isWordOf {p : BitVec 4} {i : Instr} (h : decodeFixed p = .ok i) :
    IsWordOf (pack fmtFixed (p.setWidth 9)) i := by
  unfold decodeFixed at h
  split_ifs at h <;> (subst p; cases h; exact ⟨rfl, rfl⟩)

theorem decodeMnack_isWordOf {p : BitVec 1} {i : Instr} (h : decodeMnack p = .ok i) :
    IsWordOf (pack fmtMnack (p.setWidth 9)) i := by
  unfold decodeMnack at h
  split_ifs at h
  subst p; cases h; exact ⟨rfl, rfl⟩

theorem decodeMatch_isWordOf {bits : BitVec 9} {i : Instr} (h : decodeMatch bits = .ok i) :
    IsWordOf (pack fmtMatch bits) i := by
  have hbits := frameWord_parts bits
  unfold decodeMatch at h
  cases hd : bits.getLsbD 1 <;> (rw [hd] at h hbits; cases h; exact ⟨rfl, congrArg (pack fmtMatch) hbits⟩)

theorem decodeTick_isWordOf {t : BitVec 5} {i : Instr} (h : decodeTick t = .ok i) :
    IsWordOf (pack fmtTick (t.setWidth 9)) i := by
  unfold decodeTick at h
  split_ifs at h with ht
  cases h
  exact ⟨by simpa [Instr.wellFormed] using ht, rfl⟩

theorem decodeDrain_isWordOf {p : BitVec 4} {i : Instr} (h : decodeDrain p = .ok i) :
    IsWordOf (pack fmtDrain (p.setWidth 9)) i := by
  have hflags : ∀ p : BitVec 4, p ≠ 0 →
      (p.getLsbD 3 || p.getLsbD 2 || p.getLsbD 1 || p.getLsbD 0) = true
        ∧ flagWord (p.getLsbD 3) (p.getLsbD 2) (p.getLsbD 1) (p.getLsbD 0) = p.setWidth 9 := by decide
  unfold decodeDrain at h
  split_ifs at h with hp
  cases h
  exact ⟨(hflags p hp).1, congrArg (pack fmtDrain) (hflags p hp).2⟩

/-- What a format's decoder answers encodes to that format and those bits. -/
theorem decodeFormat_isWordOf {f : BitVec 4} {bits : BitVec 9} {i : Instr} (h : decodeFormat f bits = .ok i) :
    IsWordOf (pack f bits) i := by
  unfold decodeFormat at h
  obtain ⟨rfl, h⟩ | ⟨-, h⟩ := ite_eq_iff.mp h
  · exact narrow_isWordOf (fun _ => decodeFixed_isWordOf) h
  obtain ⟨rfl, h⟩ | ⟨-, h⟩ := ite_eq_iff.mp h
  · exact narrow_isWordOf (fun _ => decodeMnack_isWordOf) h
  obtain ⟨rfl, h⟩ | ⟨-, h⟩ := ite_eq_iff.mp h
  · exact narrow_bit_isWordOf (mk := .slotIdle) (fun _ => ⟨rfl, rfl⟩) h
  obtain ⟨rfl, h⟩ | ⟨-, h⟩ := ite_eq_iff.mp h
  · refine narrow_byte_isWordOf (mk := fun b => .slotAddr (addrOf b) (dirOf b)) (fun b => ⟨rfl, ?_⟩) h
    rw [encode, addrOf_append_dirOf]
  obtain ⟨rfl, h⟩ | ⟨-, h⟩ := ite_eq_iff.mp h
  · exact decodeMatch_isWordOf h
  obtain ⟨rfl, h⟩ | ⟨-, h⟩ := ite_eq_iff.mp h
  · cases h
    exact ⟨rfl, congrArg (pack fmtMismatch) (frameWord_parts bits)⟩
  obtain ⟨rfl, h⟩ | ⟨-, h⟩ := ite_eq_iff.mp h
  · exact narrow_bit_isWordOf (mk := .rxBit) (fun _ => ⟨rfl, rfl⟩) h
  obtain ⟨rfl, h⟩ | ⟨-, h⟩ := ite_eq_iff.mp h
  · exact narrow_byte_isWordOf (mk := .rxOffset) (fun _ => ⟨rfl, rfl⟩) h
  obtain ⟨rfl, h⟩ | ⟨-, h⟩ := ite_eq_iff.mp h
  · exact narrow_byte_isWordOf (mk := .rxData) (fun _ => ⟨rfl, rfl⟩) h
  obtain ⟨rfl, h⟩ | ⟨-, h⟩ := ite_eq_iff.mp h
  · exact narrow_bit_isWordOf (mk := .rxAck) (fun _ => ⟨rfl, rfl⟩) h
  obtain ⟨rfl, h⟩ | ⟨-, h⟩ := ite_eq_iff.mp h
  · exact narrow_bit_isWordOf (mk := .txBit) (fun _ => ⟨rfl, rfl⟩) h
  obtain ⟨rfl, h⟩ | ⟨-, h⟩ := ite_eq_iff.mp h
  · exact narrow_isWordOf (fun _ => decodeTick_isWordOf) h
  obtain ⟨rfl, h⟩ | ⟨-, h⟩ := ite_eq_iff.mp h
  · exact narrow_isWordOf (fun _ => decodeDrain_isWordOf) h
  obtain ⟨rfl, h⟩ | ⟨-, h⟩ := ite_eq_iff.mp h
  · exact narrow_bit_isWordOf (mk := .reset) (fun _ => ⟨rfl, rfl⟩) h
  · cases h

/-- Settles O2: the word is its format and its bits, and each format's decoder is undone by the encoder. -/
theorem encodeOfDecode : Obligations.EncodeOfDecode := by
  intro w i h
  unfold decodeWord at h
  split_ifs at h with hreserved
  exact pack_parts hreserved ▸ decodeFormat_isWordOf h

/-- Settles O3, by running the decoder on the four words. -/
theorem tableWordsDecode : Obligations.TableWordsDecode := by
  unfold Obligations.TableWordsDecode; decide

end Sys2Proof.Machine
end

section
/-!
PROOFS. Steps by the operation map: the selected operation (R110), the operation presented to the next step (log 1), the eight
slots of an address byte (R185), and `TICK` (R105).
-/

namespace Sys2Proof.Machine

/-! ## The selected operation -/

/-- Settles O5: the selected word decodes to the table's operation, and what decodes is well formed. -/
theorem selectedWordIsTheTablesOperation : Obligations.SelectedWordIsTheTablesOperation := by
  intro e s
  refine ⟨decodeWord_selectWord e s, fun i hi => ?_⟩
  have hw := decodeWord_selectWord e s
  rw [hi, Option.map_some, Option.map_eq_some_iff] at hw
  obtain ⟨w, -, hw⟩ := hw
  exact (encodeOfDecode w i hw).1

/-- Settles O4: the event is taken from the schedule and its word runs. -/
theorem stepRunsDecodedOperation : Obligations.StepRunsDecodedOperation := by
  intro s e rest w i hs hw hi
  rw [step_of_cons hs, stepInput_of_decoded hw hi]

/-! ## The presented operation (log 1) -/

/-- Every operation has a next state: none faults and none refuses (R200). -/
theorem exec_completes (i : Instr) (s : State) : Completes (exec i s) := by
  cases i with
  | drain c a r t =>
    show Completes (execDrain c a r t s)
    unfold execDrain
    split
    · exact ⟨_, rfl⟩
    · exact ⟨_, rfl⟩
  | start | stop | slotIdle | slotAddr | addrAckW | addrAckR | addrNack | rxBit | rxOffset | rxData | rxAck | txBit | txMack
  | txMnack | tick | driveInterrupts | resetInterrupts | advance | checkAlarms | reset => exact ⟨_, rfl⟩

/-- Sixteen table bits are the two bytes of their word. -/
theorem tableBytes_word (w : OpWord) : tableBytes 16 w.toNat = wordBytes w := by
  have hbyte (k : Nat) : BitVec.ofNat 8 (w.toNat / 2 ^ k) = w.extractLsb' k 8 := by
    rw [BitVec.extractLsb', Nat.shiftRight_eq_div_pow]
  have hlt : w.toNat % 2 ^ 16 = w.toNat := Nat.mod_eq_of_lt w.isLt
  rw [tableBytes, hlt]
  exact congrArg₂ (fun lo hi => [lo, hi]) (hbyte 0) (hbyte 8)

/-- The word of an operation of the table presents it. -/
theorem withFetchWord_encode {i : Instr} (h : i.wellFormed = true) (s : State) :
    s.withFetchWord 16 (encode i).toNat = present i s := by
  have hdecode : decodeTableWord 16 (encode i).toNat = some i := by
    have hbytes := decodeOfEncode i h []
    rw [List.append_nil] at hbytes
    rw [decodeTableWord, tableBytes_word, hbytes]
  rw [State.withFetchWord, hdecode]

/-- The event that an operation needs (R110). -/
def eventOf : Instr → Input
  | .start => .start
  | .stop => .stop
  | .slotIdle m | .slotAddr _ m | .addrAckW _ m | .addrAckR _ m | .addrNack _ _ m => .slot m
  | .rxBit m | .rxAck m | .txBit m => .slot m
  | .rxOffset b | .rxData b => .slot (b.getLsbD 0)
  | .txMack => .slot false
  | .txMnack => .slot true
  | .tick _ => .tick
  | .drain _ _ _ _ => .drain none
  | .driveInterrupts => .drain (some .assert)
  | .resetInterrupts => .drain (some .reset)
  | .advance => .drain (some .advance)
  | .checkAlarms => .drain (some .check)
  | .reset v => .powerUp v

/-- Presenting an operation puts its event first. -/
theorem present_inputs (i : Instr) (s : State) : (present i s).inputs = eventOf i :: s.inputs := by
  cases i <;> rfl

/-- The phase of the table is the one after the count that presents it (R105). -/
theorem tickPhase_presented {t : BitVec 5} (h : (Instr.tick t).wellFormed = true) :
    BitVec.ofNat 5 ((Fin.ofNat 16 (t.toNat - 1)).val + 1) = t := by
  revert h; revert t; decide

/-- In the presented state the event enables the operation. -/
theorem operationOf_present {i : Instr} (h : i.wellFormed = true) (s : State) :
    operationOf (eventOf i) { present i s with inputs := s.inputs } = some i := by
  cases i with
  | start | stop | slotIdle | rxBit | rxAck | txBit | txMack | txMnack | reset => rfl
  | driveInterrupts | resetInterrupts | advance | checkAlarms => rfl
  | slotAddr a d =>
    have hbits : ∀ a : BitVec 7, (a.setWidth 8).extractLsb' 0 7 = a := by decide
    exact congrArg (fun a => some (Instr.slotAddr a d)) (hbits a)
  | addrAckW a k => simp [operationOf, slotOperation, present, eventOf, -BitVec.ofBool_false]
  | addrAckR a k => simp [operationOf, slotOperation, present, eventOf, -BitVec.ofBool_true]
  | addrNack x d k => simp [operationOf, slotOperation, present, eventOf]
  | rxOffset o => exact congrArg (fun b => some (Instr.rxOffset b)) (shiftIn_shiftRight_bit0 o)
  | rxData d => exact congrArg (fun b => some (Instr.rxData b)) (shiftIn_shiftRight_bit0 d)
  | tick t => exact congrArg (fun t => some (Instr.tick t)) (tickPhase_presented h)
  | drain c a r t => exact if_pos (wellFormed_drain ⟨t, r, a, c⟩ ▸ h)

/-- Settles O7: the word presents the operation, its event is the next one, and it enables that operation. -/
theorem presentedOperationRuns : Obligations.PresentedOperationRuns := by
  intro i s h
  refine ⟨?_, exec_completes i _⟩
  rw [withFetchWord_encode h, step_of_cons (present_inputs i s), stepInput_of_operation (operationOf_present h s)]

/-! ## The eight slots of an address byte (R107, R185) -/

/-- The first of several steps. -/
theorem runSteps_succ {s t : State} (h : step s = .next t) (k : Nat) : runSteps (k + 1) s = runSteps k t := by
  simp only [runSteps, Host.Core.run, core, h]

/-- Before the eighth slot a bit is shifted in and counted (R185). -/
theorem execSlotAddr_early {s : State} (h : s.bitcnt ≠ 7) (a : BitVec 7) (m : Bool) :
    execSlotAddr a m s =
      .next { s with shreg := shiftIn s.shreg m, bitcnt := s.bitcnt + 1, busOut := some ⟨true, m⟩, cond := none } := by
  simp [execSlotAddr, h, putSlot]

/-- With the eighth slot the address byte is whole (R185). -/
theorem execSlotAddr_eighth {s : State} (h : s.bitcnt = 7) (a : BitVec 7) (m : Bool) :
    execSlotAddr a m s =
      .next { s with
        shreg := shiftIn s.shreg m, phase := .addressCheck, bitcnt := 0, busOut := some ⟨true, m⟩, cond := none } := by
  simp [execSlotAddr, h, putSlot]

/-- A slot in AddressPhase runs `SLOT.ADDR`. -/
theorem step_addressSlot {s : State} {m : Bool} {rest : List Input} (hp : s.powered = true) (hphase : s.phase = .addressPhase)
    (hs : s.inputs = .slot m :: rest) :
    step s = execSlotAddr (s.shreg.extractLsb' 0 7) m { s with inputs := rest } := by
  have hop : operationOf (.slot m) { s with inputs := rest } = some (.slotAddr (s.shreg.extractLsb' 0 7) m) := by
    simp [operationOf, slotOperation, hp, hphase]
  rw [step_of_cons hs, stepInput_of_operation hop]
  rfl

/-- As many slots as the address byte lacks complete it: `ms` and a last one. -/
theorem runSteps_addressSlots (ms : List Bool) (m : Bool) (rest : List Input) (s : State) (hp : s.powered = true)
    (hphase : s.phase = .addressPhase) (hcount : s.bitcnt.val + ms.length = 7) (hs : s.inputs = (ms ++ [m]).map .slot ++ rest) :
    runSteps (ms.length + 1) s = .next { s with
      phase := .addressCheck, bitcnt := 0, shreg := (ms ++ [m]).foldl shiftIn s.shreg, inputs := rest
      busOut := some ⟨true, m⟩, cond := none } := by
  induction ms generalizing s with
  | nil =>
    have h7 : s.bitcnt = 7 := Fin.ext hcount
    exact runSteps_succ ((step_addressSlot hp hphase hs).trans (execSlotAddr_eighth (s := { s with inputs := rest }) h7 _ m)) 0
  | cons m' ms ih =>
    rw [List.length_cons] at hcount
    have h7 : s.bitcnt ≠ 7 := by rintro h; simp [h] at hcount
    have hnext : (s.bitcnt + 1).val = s.bitcnt.val + 1 := Fin.val_add_one_of_lt' (by omega)
    have hstep := (step_addressSlot hp hphase hs).trans
      (execSlotAddr_early (s := { s with inputs := (ms ++ [m]).map .slot ++ rest }) h7 _ m')
    rw [List.length_cons, runSteps_succ hstep]
    exact ih _ hp hphase (by rw [hnext]; omega) rfl

/-- The bits of a byte that are sent before the last, most significant bit first (R92). -/
def leadingBits (b : Byte) : List Bool :=
  [b.getLsbD 7, b.getLsbD 6, b.getLsbD 5, b.getLsbD 4, b.getLsbD 3, b.getLsbD 2, b.getLsbD 1]

theorem byteSlots_eq (b : Byte) : byteSlots b = (leadingBits b ++ [b.getLsbD 0]).map .slot := rfl

/-- The bits after a shift: the new bit in bit 0, and each older bit one place up. -/
theorem shiftIn_getLsbD (b : Byte) (m : Bool) (i : Nat) (h : i < 8) :
    (shiftIn b m).getLsbD i = if i = 0 then m else b.getLsbD (i - 1) := by
  rw [shiftIn, BitVec.getLsbD_append]
  by_cases h0 : i = 0
  · simp [h0]
  · have hhigh : ¬i < 1 := by omega
    have hlow : i - 1 < 7 := by omega
    simp [h0, hhigh, hlow]

/-- Eight bits shifted in are the byte, and nothing of the byte before is left. -/
theorem foldl_shiftIn_byte (b c : Byte) : (leadingBits b ++ [b.getLsbD 0]).foldl shiftIn c = b := by
  apply BitVec.eq_of_getLsbD_eq
  intro i hi
  interval_cases i <;> simp [leadingBits, shiftIn_getLsbD, -BitVec.getLsbD_eq_getElem]

/-- Settles O12: the eight slots complete the byte that they shift in. -/
theorem addressByteAssembled : Obligations.AddressByteAssembled := by
  intro s b rest hp hphase hcount hs
  have hrun := runSteps_addressSlots (leadingBits b) (b.getLsbD 0) rest s hp hphase (by rw [hcount]; rfl) hs
  rw [foldl_shiftIn_byte] at hrun
  exact hrun

/-! ## `TICK` (R105) -/

/-- The counter after `TICK`. -/
theorem tickStep_tick (s : State) : (tickStep s).tick.val = (s.tick.val + 1) % 16 := by
  have hlt := s.tick.isLt
  by_cases h : s.tick.val + 1 < 16
  · simp [tickStep, h, Nat.mod_eq_of_lt h]
  · have h16 : s.tick.val + 1 = 16 := by omega
    simp [tickStep, h16]

theorem toggle_eq_xor (p : Prop) [Decidable p] (b : Bool) : (if p then !b else b) = xor b (decide p) := by
  by_cases h : p
  · simp [h]
  · simp [h]

/-- The square wave after `TICK`. -/
theorem tickStep_sqw (s : State) :
    (tickStep s).out.sqw = xor s.out.sqw (s.tick.val + 1 == 8 || s.tick.val + 1 == 16) := by
  rw [tickStep, toggle_eq_xor, Bool.decide_or]
  rfl

/-- Settles O49, field by field. -/
theorem tickActsByPhase : Obligations.TickActsByPhase := fun _ s =>
  ⟨tickStep s, rfl, rfl, tickStep_tick s, rfl, tickStep_sqw s⟩

end Sys2Proof.Machine
end

section
/-!
PROOFS. `ADVANCE` (40_time_engine.md R120 to R137): BCD digits, the leap test, the steps of the fields, the carry chain as a list of
cases, and what each case says of the time of day, the weekday, the date and the year.
-/

namespace Sys2Proof.Machine

/-! ## The BCD increment (R121) -/

theorem units_bcdInc {b : Byte} (hb : isBcd b = true) : units (bcdInc b) = if units b = 9 then 0 else units b + 1 := by
  obtain ⟨-, hu⟩ := (isBcd_iff b).mp hb
  rw [bcdInc]
  split
  · rw [units_ofDigits (by omega), if_pos (by omega)]
  · rw [units_ofDigits (by omega), if_neg (by omega)]

theorem tens_bcdInc {b : Byte} (hb : isBcd b = true) : tens (bcdInc b) = if units b = 9 then tens b + 1 else tens b := by
  obtain ⟨ht, hu⟩ := (isBcd_iff b).mp hb
  rw [bcdInc]
  split
  · rw [tens_ofDigits (by omega) (by omega), if_pos (by omega)]
  · rw [tens_ofDigits (by omega) (by omega), if_neg (by omega)]

/-- The increment adds one in the weights 10 and 1 of the digits, also after 99, where the tens digit becomes 10. -/
theorem val_bcdInc {b : Byte} (hb : isBcd b = true) : val (bcdInc b) = val b + 1 := by
  rw [val, val, tens_bcdInc hb, units_bcdInc hb]
  split <;> omega

theorem bcdInc_ne_self {b : Byte} (hb : isBcd b = true) : bcdInc b ≠ b := fun h => by
  have hval := val_bcdInc hb
  rw [h] at hval
  omega

/-- A byte is determined by its digits. -/
theorem eq_of_digits {b c : Byte} (ht : tens b = tens c) (hu : units b = units c) : b = c := by
  simp only [tens, units] at ht hu
  exact BitVec.eq_of_toNat_eq (by omega)

/-- Of the BCD bytes 0x99 alone takes the tens digit to 10. -/
theorem tens_bcdInc_eq_ten {b : Byte} (hb : isBcd b = true) : tens (bcdInc b) = 10 ↔ b = 0x99 := by
  obtain ⟨ht, -⟩ := (isBcd_iff b).mp hb
  constructor
  · intro h
    rw [tens_bcdInc hb] at h
    split at h
    · rename_i hu
      exact eq_of_digits (show tens b = 9 by omega) hu
    · omega
  · rintro rfl
    decide

/-- Settles O32, digit by digit. -/
theorem bcdIncrementByDigits : Obligations.BcdIncrementByDigits := fun b hb => by
  refine ⟨units_bcdInc hb, tens_bcdInc hb, tens_bcdInc_eq_ten hb, fun hne => bcdInc_of_val_lt hb ?_⟩
  have hrange := (inRange_of_isBcd hb).upper
  have hlast : val b ≠ 99 := fun h => hne ((eq_bcd_val hb).trans (congrArg bcd h))
  omega

/-! ## The leap test (R124) -/

/-- The leap years of a century by their value: the multiples of 4 without those of 20. -/
theorem leapTest_iff {y : Byte} (hy : isBcd y = true) : leapTest y = true ↔ val y % 4 = 0 ∧ val y % 20 ≠ 0 := by
  obtain ⟨-, hu⟩ := (isBcd_iff y).mp hy
  rw [leapTest, val]
  split
  · simp only [Bool.or_eq_true, beq_iff_eq]; omega
  · simp only [Bool.or_eq_true, beq_iff_eq]; omega

/-- Settles O33: the list holds the multiples of 4 below 100 without those of 20. -/
theorem leapTestYears : Obligations.LeapTestYears := fun y hy => by
  have hlist : ∀ n ≤ 99, (n % 4 = 0 ∧ n % 20 ≠ 0 ↔
      n ∈ [4, 8, 12, 16, 24, 28, 32, 36, 44, 48, 52, 56, 64, 68, 72, 76, 84, 88, 92, 96]) := by decide
  exact (leapTest_iff hy).trans (hlist _ (inRange_of_isBcd hy).upper)

/-! ## The steps of the fields (R122 to R130) -/

/-- A value of a range that is not its last is less than it. -/
theorem InRange.val_lt {lo hi : Nat} {b : Byte} (h : InRange lo hi b) (hne : b ≠ bcd hi) : val b < hi :=
  lt_of_le_of_ne h.upper fun hv => hne (hv ▸ eq_bcd_val h.digits)

/-- Below the last value of its range a field is incremented and carries nothing. -/
theorem InRange.rollStep_of_ne {lo hi : Nat} {rollover first b : Byte} (h : InRange lo hi b) (hne : b ≠ bcd hi)
    (hroll : val rollover = hi + 1) : rollStep rollover first b = (bcdInc b, false) := by
  refine if_neg fun heq => ?_
  have hval := val_bcdInc h.digits
  have hlt := h.val_lt hne
  rw [heq] at hval
  omega

theorem secStep_of_ne {b : Byte} (h : InRange 0 59 b) (hne : b ≠ 0x59) : secStep b = (bcdInc b, false) :=
  h.rollStep_of_ne hne (by decide)

theorem minStep_of_ne {b : Byte} (h : InRange 0 59 b) (hne : b ≠ 0x59) : minStep b = (bcdInc b, false) :=
  h.rollStep_of_ne hne (by decide)

theorem hourStep_of_ne {b : Byte} (h : InRange 0 23 b) (hne : b ≠ 0x23) : hourStep b = (bcdInc b, false) :=
  h.rollStep_of_ne hne (by decide)

theorem monthStep_of_ne {b : Byte} (h : InRange 1 12 b) (hne : b ≠ 0x12) : monthStep b = (bcdInc b, false) :=
  h.rollStep_of_ne hne (by decide)

theorem yearStep_of_ne {b : Byte} (h : InRange 0 99 b) (hne : b ≠ 0x99) : yearStep b = (bcdInc b, false) :=
  h.rollStep_of_ne hne (by decide)

theorem secStep_last {b : Byte} (h : b = 0x59) : secStep b = (0x00, true) := by rw [h]; rfl

theorem minStep_last {b : Byte} (h : b = 0x59) : minStep b = (0x00, true) := by rw [h]; rfl

theorem hourStep_last {b : Byte} (h : b = 0x23) : hourStep b = (0x00, true) := by rw [h]; rfl

theorem monthStep_last {b : Byte} (h : b = 0x12) : monthStep b = (0x01, true) := by rw [h]; rfl

theorem yearStep_last {b : Byte} (h : b = 0x99) : yearStep b = (0x00, true) := by rw [h]; rfl

/-- The century counts modulo 100 and its carry is dropped (R130). -/
theorem val_centuryStep {b : Byte} (h : InRange 0 99 b) : val (centuryStep b) = (val b + 1) % 100 := by
  by_cases heq : b = 0x99
  · rw [heq]; decide
  · have hlt := h.val_lt heq
    rw [centuryStep, h.rollStep_of_ne heq (by decide), val_bcdInc h.digits, Nat.mod_eq_of_lt (by omega)]

/-- The weekday's step counts 1 to 7 around (R126). -/
theorem dowStep_eq (w : Byte) : dowStep w = if w = 7 then 1 else w + 1 := by
  have h : w + 1 = 8 ↔ w = 7 := ⟨fun h => by bv_omega, fun h => by bv_omega⟩
  simp only [dowStep, h]

theorem dateRolls_iff (d mo : Byte) (leap : Bool) : dateRolls d mo leap = true ↔
    (mo = 0x02 ∧ (d = 0x29 ∧ leap = false ∨ d = 0x30)) ∨ (d = 0x31 ∧ mo ∈ ([0x04, 0x06, 0x09, 0x11] : List Byte))
      ∨ (d = 0x32 ∧ mo ∈ ([0x01, 0x03, 0x05, 0x07, 0x08, 0x10, 0x12] : List Byte)) := by
  simp only [dateRolls, is30DayMonth, is31DayMonth, Bool.or_eq_true, Bool.and_eq_true, beq_iff_eq, Bool.not_eq_true',
    List.mem_cons, List.not_mem_nil, or_false]
  tauto

/-- The first of a month does not meet a rollover constant. -/
theorem ne_first_of_dateRolls {d mo : Byte} {leap : Bool} (h : dateRolls d mo leap = true) : (0x01 : Byte) ≠ d := by
  rintro rfl
  simp [dateRolls] at h

/-- The date's step under this hardware's reading (R127, log 18). -/
theorem dateStep_pre (d mo : Byte) (leap : Bool) :
    dateStep Config.dateRollCompare d mo leap = if dateRolls d mo leap then (0x01, true) else (bcdInc d, false) := rfl

/-! ## The carry chain (R120) -/

@[simp] theorem onCarry_false (step : Byte → Byte × Bool) (b : Byte) : onCarry false step b = (b, false) := rfl

@[simp] theorem onCarry_true (step : Byte → Byte × Bool) (b : Byte) : onCarry true step b = step b := rfl

/-- The last second of a day. -/
structure TimeRegs.DayEnd (t : TimeRegs) : Prop where
  sec : t.sec = 0x59
  min : t.min = 0x59
  hour : t.hour = 0x23

theorem TimeRegs.dayEnd_iff (t : TimeRegs) : t.DayEnd ↔ t.sec = 0x59 ∧ t.min = 0x59 ∧ t.hour = 0x23 :=
  ⟨fun ⟨hs, hm, hh⟩ => ⟨hs, hm, hh⟩, fun ⟨hs, hm, hh⟩ => ⟨hs, hm, hh⟩⟩

/-- The registers with the time of day at 0 and the weekday one on. -/
def TimeRegs.nextDay (t : TimeRegs) : TimeRegs := { t with sec := 0x00, min := 0x00, hour := 0x00, dow := dowStep t.dow }

/-- What the last second of a day can make of the registers, here `t'`, and of the leap cache (R126 to R130): one case for the field
at which the carry stops. -/
inductive DayChain (t : TimeRegs) (leap : Bool) : (t' : TimeRegs) → (leap' : Bool) → Prop where
  | date (hd : dateRolls t.date t.month leap = false) : DayChain t leap { t.nextDay with date := bcdInc t.date } leap
  | month (hd : dateRolls t.date t.month leap = true) (hmo : t.month ≠ 0x12) :
    DayChain t leap { t.nextDay with date := 0x01, month := bcdInc t.month } leap
  | year (hd : dateRolls t.date t.month leap = true) (hmo : t.month = 0x12) (hy : t.year ≠ 0x99) :
    DayChain t leap { t.nextDay with date := 0x01, month := 0x01, year := bcdInc t.year } (leapTest (bcdInc t.year))
  | century (hd : dateRolls t.date t.month leap = true) (hmo : t.month = 0x12) (hy : t.year = 0x99) :
    DayChain t leap { t.nextDay with date := 0x01, month := 0x01, year := 0x00, century := centuryStep t.century } (leapTest 0x00)

/-- What `ADVANCE` can do in its domain (R120 to R125): the carry stops at the seconds, minutes or hours, or the day ends. -/
inductive CarryChain (t : TimeRegs) (leap : Bool) : Advanced → Prop where
  | sec (hs : t.sec ≠ 0x59) : CarryChain t leap ⟨{ t with sec := bcdInc t.sec }, leap, false⟩
  | min (hs : t.sec = 0x59) (hm : t.min ≠ 0x59) :
    CarryChain t leap ⟨{ t with sec := 0x00, min := bcdInc t.min }, leap, true⟩
  | hour (hs : t.sec = 0x59) (hm : t.min = 0x59) (hh : t.hour ≠ 0x23) :
    CarryChain t leap ⟨{ t with sec := 0x00, min := 0x00, hour := bcdInc t.hour }, leap, true⟩
  | day (hend : t.DayEnd) {t' : TimeRegs} {leap' : Bool} (hday : DayChain t leap t' leap') : CarryChain t leap ⟨t', leap', true⟩

/-- Before the last second of a day one of the time-of-day fields stops the carry. -/
theorem advanceTime_beforeDayEnd {t : TimeRegs} (h : t.FieldsInRange) (hend : ¬t.DayEnd) (leap : Bool) :
    CarryChain t leap (advanceTime t leap) := by
  by_cases hs : t.sec = 0x59
  · by_cases hm : t.min = 0x59
    · have hh : t.hour ≠ 0x23 := fun hh => hend ⟨hs, hm, hh⟩
      have heq : advanceTime t leap = ⟨{ t with sec := 0x00, min := 0x00, hour := bcdInc t.hour }, leap, true⟩ := by
        simp [advanceTime, secStep_last hs, minStep_last hm, hourStep_of_ne h.hour hh]
      exact heq ▸ .hour hs hm hh
    · have heq : advanceTime t leap = ⟨{ t with sec := 0x00, min := bcdInc t.min }, leap, true⟩ := by
        simp [advanceTime, secStep_last hs, minStep_of_ne h.min hm]
      exact heq ▸ .min hs hm
  · have heq : advanceTime t leap = ⟨{ t with sec := bcdInc t.sec }, leap, false⟩ := by
      simp [advanceTime, secStep_of_ne h.sec hs]
    exact heq ▸ .sec hs

/-- At the end of a day the date takes its step and the month and the year follow it. -/
theorem advanceTime_atDayEnd {t : TimeRegs} (h : t.FieldsInRange) (hend : t.DayEnd) (leap : Bool) :
    CarryChain t leap (advanceTime t leap) := by
  have hday {t' : TimeRegs} {leap' : Bool} (hchain : DayChain t leap t' leap') (heq : advanceTime t leap = ⟨t', leap', true⟩) :
      CarryChain t leap (advanceTime t leap) := heq ▸ .day hend hchain
  have htime := And.intro (secStep_last hend.sec) (And.intro (minStep_last hend.min) (hourStep_last hend.hour))
  cases hd : dateRolls t.date t.month leap with
  | false => exact hday (.date hd) (by simp [advanceTime, TimeRegs.nextDay, htime, dateStep_pre, hd])
  | true =>
    by_cases hmo : t.month = 0x12
    · by_cases hy : t.year = 0x99
      · exact hday (.century hd hmo hy)
          (by simp [advanceTime, TimeRegs.nextDay, htime, dateStep_pre, hd, monthStep_last hmo, yearStep_last hy])
      · exact hday (.year hd hmo hy)
          (by simp [advanceTime, TimeRegs.nextDay, htime, dateStep_pre, hd, monthStep_last hmo, yearStep_of_ne h.year hy])
    · exact hday (.month hd hmo)
        (by simp [advanceTime, TimeRegs.nextDay, htime, dateStep_pre, hd, monthStep_of_ne h.month hmo])

/-- In the domain the carry chain stops at the first field that does not roll (R120, R135). -/
theorem advanceTime_carryChain {t : TimeRegs} (h : t.FieldsInRange) (leap : Bool) : CarryChain t leap (advanceTime t leap) := by
  by_cases hend : t.DayEnd
  · exact advanceTime_atDayEnd h hend leap
  · exact advanceTime_beforeDayEnd h hend leap

/-! ## What the carry chain does to the time of day -/

/-- The last second of a day sets the time of day to 0 and steps the weekday, whatever becomes of the date (R126). -/
theorem DayChain.timeOfDay {t t' : TimeRegs} {leap leap' : Bool} (hd : DayChain t leap t' leap') :
    t'.sec = 0x00 ∧ t'.min = 0x00 ∧ t'.hour = 0x00 ∧ t'.dow = dowStep t.dow := by
  cases hd with
  | date | month | year | century => exact ⟨rfl, rfl, rfl, rfl⟩

section

variable {t : TimeRegs} {leap : Bool} {r : Advanced}

/-- One second later, counted in seconds of the day (R137). -/
theorem CarryChain.secondOfDay (h : t.FieldsInRange) (hr : CarryChain t leap r) :
    r.time.secondOfDay = (t.secondOfDay + 1) % 86400 := by
  have hhour := h.hour.upper
  have hmin := h.min.upper
  have h59 : val 0x59 = 59 := rfl
  have h00 : val 0x00 = 0 := rfl
  cases hr with
  | sec hs =>
    have hsec := h.sec.val_lt hs
    simp only [TimeRegs.secondOfDay, val_bcdInc h.sec.digits]
    omega
  | min hs hm =>
    have hmin := h.min.val_lt hm
    simp only [TimeRegs.secondOfDay, val_bcdInc h.min.digits, hs, h59, h00]
    omega
  | hour hs hm hh =>
    have hhour := h.hour.val_lt hh
    simp only [TimeRegs.secondOfDay, val_bcdInc h.hour.digits, hs, hm, h59, h00]
    omega
  | day hend hday =>
    obtain ⟨hs, hm, hh, -⟩ := hday.timeOfDay
    simp only [TimeRegs.secondOfDay, hs, hm, hh, hend.sec, hend.min, hend.hour]
    decide

/-- The seconds roll from 59 alone (R122). -/
theorem CarryChain.rolled (hr : CarryChain t leap r) : r.rolled = decide (t.sec = 0x59) := by
  cases hr with
  | sec hs => exact (decide_eq_false hs).symm
  | min hs | hour hs => simp [hs]
  | day hend => simp [hend.sec]

/-- Below second 59 only the seconds change. -/
theorem CarryChain.of_sec_ne (hr : CarryChain t leap r) (hs : t.sec ≠ 0x59) :
    r = ⟨{ t with sec := bcdInc t.sec }, leap, false⟩ := by
  cases hr with
  | sec => rfl
  | min hs' | hour hs' => exact absurd hs' hs
  | day hend => exact absurd hend.sec hs

/-- The minutes change only when the seconds rolled, the hours only when the minutes rolled (R123, R125). -/
theorem CarryChain.min_hour_of_ne (hr : CarryChain t leap r) :
    (r.time.min ≠ t.min → t.sec = 0x59) ∧ (r.time.hour ≠ t.hour → t.sec = 0x59 ∧ t.min = 0x59) := by
  cases hr with
  | sec => exact ⟨fun hne => absurd rfl hne, fun hne => absurd rfl hne⟩
  | min hs => exact ⟨fun _ => hs, fun hne => absurd rfl hne⟩
  | hour hs hm => exact ⟨fun _ => hs, fun _ => ⟨hs, hm⟩⟩
  | day hend => exact ⟨fun _ => hend.sec, fun _ => ⟨hend.sec, hend.min⟩⟩

/-- Before the end of a day only the time of day changes. -/
theorem CarryChain.of_not_dayEnd (hr : CarryChain t leap r) (hend : ¬t.DayEnd) :
    r.time = { t with sec := r.time.sec, min := r.time.min, hour := r.time.hour } ∧ r.isLeap = leap := by
  cases hr with
  | sec | min | hour => exact ⟨rfl, rfl⟩
  | day hday => exact absurd hday hend

/-- At the end of a day the chain goes on to the date. -/
theorem CarryChain.of_dayEnd (hr : CarryChain t leap r) (hend : t.DayEnd) : DayChain t leap r.time r.isLeap := by
  cases hr with
  | sec hs => exact absurd hend.sec hs
  | min _ hm => exact absurd hend.min hm
  | hour _ _ hh => exact absurd hend.hour hh
  | day _ hday => exact hday

end

/-! ## What the end of a day does to the date, the month and the year -/

section

variable {t t' : TimeRegs} {leap leap' : Bool}

/-- The date changes at the end of every day. -/
theorem DayChain.date_ne (h : t.FieldsInRange) (hd : DayChain t leap t' leap') : t'.date ≠ t.date := by
  cases hd with
  | date => exact bcdInc_ne_self h.date.digits
  | month hroll | year hroll | century hroll => exact ne_first_of_dateRolls hroll

/-- Without a roll of the date only the date changes, by one (R127). -/
theorem DayChain.of_not_roll (hd : DayChain t leap t' leap') (hroll : dateRolls t.date t.month leap = false) :
    t' = { t.nextDay with date := bcdInc t.date } ∧ leap' = leap := by
  cases hd with
  | date => exact ⟨rfl, rfl⟩
  | month hd | year hd | century hd => exact absurd hd (by simp [hroll])

/-- A roll of the date starts the next month, January after December (R127, R128). -/
theorem DayChain.of_roll (h : t.FieldsInRange) (hd : DayChain t leap t' leap')
    (hroll : dateRolls t.date t.month leap = true) : t'.date = 0x01 ∧ val t'.month = val t.month % 12 + 1 := by
  have hjanuary : val 0x01 = val 0x12 % 12 + 1 := by decide
  cases hd with
  | date hd => exact absurd hd (by simp [hroll])
  | month _ hmo =>
    have hlt := h.month.val_lt hmo
    exact ⟨rfl, by rw [val_bcdInc h.month.digits, Nat.mod_eq_of_lt hlt]⟩
  | year _ hmo | century _ hmo => exact ⟨rfl, by rw [hmo]; exact hjanuary⟩

/-- The end of a year (R128 to R130). -/
theorem DayChain.of_yearEnd (h : t.FieldsInRange) (hd : DayChain t leap t' leap')
    (hroll : dateRolls t.date t.month leap = true) (hmo : t.month = 0x12) :
    t'.month = 0x01 ∧ val t'.year = (val t.year + 1) % 100 ∧ leap' = leapTest t'.year
      ∧ (if t.year = 0x99 then val t'.century = (val t.century + 1) % 100 else t'.century = t.century) := by
  have hwrap : val 0x00 = (val 0x99 + 1) % 100 := by decide
  cases hd with
  | date hd => exact absurd hd (by simp [hroll])
  | month _ hne => exact absurd hmo hne
  | year _ _ hy =>
    have hlt := h.year.val_lt hy
    exact ⟨rfl, by rw [val_bcdInc h.year.digits, Nat.mod_eq_of_lt (by omega)], rfl, by rw [if_neg hy]; rfl⟩
  | century _ _ hy => exact ⟨rfl, by rw [hy]; exact hwrap, rfl, by rw [if_pos hy]; exact val_centuryStep h.century⟩

/-- Anything above the date changes only when the date returned to the first (R128, R135). -/
theorem DayChain.date_of_ne (hd : DayChain t leap t' leap') :
    t'.month ≠ t.month ∨ t'.year ≠ t.year ∨ t'.century ≠ t.century ∨ leap' ≠ leap → t'.date = 0x01 := by
  cases hd with
  | date => rintro (hne | hne | hne | hne) <;> exact absurd rfl hne
  | month | year | century => exact fun _ => rfl

/-- The year changes only from December to January (R128). -/
theorem DayChain.year_of_ne (hd : DayChain t leap t' leap') (hne : t'.year ≠ t.year) : t.month = 0x12 ∧ t'.month = 0x01 := by
  cases hd with
  | date | month => exact absurd rfl hne
  | year _ hmo | century _ hmo => exact ⟨hmo, rfl⟩

/-- The century changes only with the year's roll (R130). -/
theorem DayChain.century_of_ne (hd : DayChain t leap t' leap') (hne : t'.century ≠ t.century) :
    t.year = 0x99 ∧ t'.year = 0x00 := by
  cases hd with
  | date | month | year => exact absurd rfl hne
  | century _ _ hy => exact ⟨hy, rfl⟩

/-- The leap cache changes only with the year (R129). -/
theorem DayChain.leap_of_ne (h : t.FieldsInRange) (hd : DayChain t leap t' leap') (hne : leap' ≠ leap) : t'.year ≠ t.year := by
  cases hd with
  | date | month => exact absurd rfl hne
  | year => exact bcdInc_ne_self h.year.digits
  | century _ _ hy => exact fun heq => absurd (show (0x00 : Byte) = 0x99 from heq.trans hy) (by decide)

end

/-! ## `ADVANCE` as an operation -/

/-- The inversion lemma of `ADVANCE` in its domain. -/
theorem advance_carryChain {s : State} (h : s.time.inDomain = true) :
    CarryChain s.time s.isLeap (advanceTime s.time s.isLeap) := advanceTime_carryChain ((inDomain_iff _).mp h) _

theorem advance_time {s : State} (h : s.time.inDomain = true) : (advance s).time = (advanceTime s.time s.isLeap).time := by
  rw [advance_inDomain h]
  exact time_putTime s _

theorem advance_isLeap {s : State} (h : s.time.inDomain = true) : (advance s).isLeap = (advanceTime s.time s.isLeap).isLeap := by
  rw [advance_inDomain h]

/-- `ADVANCE` leaves the offset space from 8 on alone, whatever the domain (R120, R132). -/
theorem advance_peek (s : State) {a : Byte} (h8 : 8 ≤ a.toNat) : (advance s).peek a = s.peek a := by
  rcases lt_or_ge a.toNat 31 with h | h
  · rw [peek_of_lt _ _ h, peek_of_lt _ _ h, advance_getElem s h8 h]
  · rw [peek_of_ge _ _ h, peek_of_ge _ _ h]

/-- Replacing the seconds among the time registers is a write of offset 0. -/
theorem putTime_sec (s : State) (b : Byte) : putTime s.rf { s.time with sec := b } = s.rf.set 0 b := by
  ext i hi
  simp only [putTime, State.time, Vector.getElem_set]
  grind

/-- Settles O34: the carry chain counts the seconds of the day; the frame is that of `ADVANCE` in its domain. -/
theorem advanceAddsOneSecond : Obligations.AdvanceAddsOneSecond := fun s h => by
  refine ⟨advance s, rfl, ?_, ?_, fun a h8 => advance_peek s h8⟩
  · rw [advance_time h]
    exact (advance_carryChain h).secondOfDay ((inDomain_iff _).mp h)
  · rw [advance_inDomain h]

/-- Settles O35: the chain stops at the seconds, so what is written is offset 0 alone. -/
theorem advanceBelowFiftyNine : Obligations.AdvanceBelowFiftyNine := fun s h hsec => by
  have hne : s.time.sec ≠ 0x59 := fun heq => absurd (heq ▸ hsec : val 0x59 ≤ 58) (by decide)
  have hadv : advance s = { s with rf := s.rf.set 0 (bcdInc s.rf[0]) } := by
    rw [advance_inDomain h, (advance_carryChain h).of_sec_ne hne, putTime_sec, Bool.or_false]
    rfl
  exact congrArg _ hadv

/-- Settles O36: the request follows the carry of the seconds, and offset 30 is outside the time registers. -/
theorem secondsRollRequestsCheck : Obligations.SecondsRollRequestsCheck := fun s h => by
  refine ⟨advance s, rfl, ?_, advance_getElem s (by decide) (by decide)⟩
  rw [advance_inDomain h, (advance_carryChain h).rolled]
  rfl

/-- Settles O41 from the equation of `ADVANCE` outside its domain. -/
theorem advanceOutsideDomainFrame : Obligations.AdvanceOutsideDomainFrame := fun s h => by
  refine ⟨advance s, rfl, ?_, fun a h8 => advance_peek s h8⟩
  rw [advance_outOfDomain h]

/-- `ADVANCE` at the last second of a day (R126 to R130). -/
theorem advance_of_dayEnd {s : State} (h : s.time.inDomain = true) (hend : s.time.DayEnd) :
    DayChain s.time s.isLeap (advance s).time (advance s).isLeap := by
  rw [advance_time h, advance_isLeap h]
  exact (advance_carryChain h).of_dayEnd hend

/-- `ADVANCE` before the last second of a day (R135). -/
theorem advance_of_not_dayEnd {s : State} (h : s.time.inDomain = true) (hend : ¬s.time.DayEnd) :
    (advance s).time =
        { s.time with sec := (advance s).time.sec, min := (advance s).time.min, hour := (advance s).time.hour }
      ∧ (advance s).isLeap = s.isLeap := by
  rw [advance_time h, advance_isLeap h]
  exact (advance_carryChain h).of_not_dayEnd hend

/-- Settles O37: below the date by the field at which the carry stops, from the date on by whether the day ends. -/
theorem carryStopsAtFirstField : Obligations.CarryStopsAtFirstField := fun s t h hexec => by
  obtain rfl : advance s = t := by injection hexec
  have hrange := (inDomain_iff _).mp h
  obtain ⟨hmin, hhour⟩ := (advance_carryChain h).min_hour_of_ne
  rw [← advance_time h] at hmin hhour
  refine ⟨hmin, hhour, ?_⟩
  by_cases hend : s.time.DayEnd
  · obtain ⟨hs, hm, hh⟩ := hend
    have hday := advance_of_dayEnd h ⟨hs, hm, hh⟩
    exact ⟨fun _ => ⟨hs, hm, hh⟩, fun hne => ⟨hs, hm, hh, hday.date_ne hrange, hday.date_of_ne hne⟩, hday.year_of_ne,
      hday.century_of_ne, hday.leap_of_ne hrange⟩
  · obtain ⟨htime, hleap⟩ := advance_of_not_dayEnd h hend
    rw [htime, hleap]
    simp

/-- Settles O38: the weekday and the date take their step at the end of a day and at no other time. -/
theorem weekdayInLockStep : Obligations.WeekdayInLockStep := fun s h => by
  refine ⟨advance s, rfl, ?_⟩
  change _ = (if s.time.sec = 0x59 ∧ s.time.min = 0x59 ∧ s.time.hour = 0x23 then _ else _)
    ∧ (_ ↔ s.time.sec = 0x59 ∧ s.time.min = 0x59 ∧ s.time.hour = 0x23)
  rw [← dowStep_eq]
  by_cases hend : s.time.DayEnd
  · have hday := advance_of_dayEnd h hend
    have hroll := s.time.dayEnd_iff.mp hend
    obtain ⟨-, -, -, hdow⟩ := hday.timeOfDay
    rw [if_pos hroll]
    exact ⟨hdow, iff_of_true (hday.date_ne ((inDomain_iff _).mp h)) hroll⟩
  · have hroll := mt s.time.dayEnd_iff.mpr hend
    rw [(advance_of_not_dayEnd h hend).1, if_neg hroll]
    exact ⟨rfl, iff_of_false (fun hne => hne rfl) hroll⟩

/-- Settles O39 from the two cases of the date's step. -/
theorem dateRollsByStoredDate : Obligations.DateRollsByStoredDate := fun s h hs hm hh => by
  have hday := advance_of_dayEnd h ⟨hs, hm, hh⟩
  have hrange := (inDomain_iff _).mp h
  refine ⟨advance s, rfl, ?_⟩
  split_ifs with hroll
  · exact hday.of_roll hrange ((dateRolls_iff ..).mpr hroll)
  · obtain ⟨htime, hleap⟩ := hday.of_not_roll (Bool.eq_false_iff.mpr (mt (dateRolls_iff ..).mp hroll))
    change val (advance s).time.date = val s.time.date + 1 ∧ (advance s).time.month = s.time.month
      ∧ (advance s).time.year = s.time.year ∧ (advance s).time.century = s.time.century ∧ (advance s).isLeap = s.isLeap
    rw [htime]
    exact ⟨val_bcdInc hrange.date.digits, rfl, rfl, rfl, hleap⟩

/-- Settles O40: a stored 32 in December rolls, so the year takes its step. -/
theorem yearRollRefreshesLeapCache : Obligations.YearRollRefreshesLeapCache := fun s h hs hm hh hd hmo => by
  have hroll : dateRolls s.time.date s.time.month s.isLeap = true :=
    (dateRolls_iff ..).mpr (.inr (.inr ⟨hd, by simp [State.time, hmo]⟩))
  exact ⟨advance s, rfl, (advance_of_dayEnd h ⟨hs, hm, hh⟩).of_yearEnd ((inDomain_iff _).mp h) hroll hmo⟩

end Sys2Proof.Machine
end

section
/-!
PROOFS. The Alarm and Interrupt Engine (R140 to R150): what `CHECK_ALARMS` makes of each flag and what it reads, and which lines
`DRIVE_INTERRUPTS` asserts.
-/

namespace Sys2Proof.Machine

/-! ## The match of one alarm (R141, R142) -/

/-- The weekday register holds 1 to 7 (R142). -/
theorem weekdayValid_iff (s : State) : s.weekdayValid = true ↔ 1 ≤ s.rf[3].toNat ∧ s.rf[3].toNat ≤ 7 := by
  rw [State.weekdayValid, Bool.and_eq_true, decide_eq_true_iff, decide_eq_true_iff]

/-- The validity of the weekday depends on the weekday register alone. -/
theorem weekdayValid_congr {s t : State} (h : t.rf[3] = s.rf[3]) : t.weekdayValid = s.weekdayValid := by
  rw [Bool.eq_iff_iff, weekdayValid_iff, weekdayValid_iff, h]

/-- The match reads the live time, the alarm's bytes and the count of draws (R140, R150). -/
theorem alarmMatch_congr {s t : State} (hrf : ∀ (i : Nat) (h : i < 26), t.rf[i] = s.rf[i]) (hdraws : t.draws = s.draws) :
    t.alarmMatch = s.alarmMatch := by
  funext k
  have hk := k.isLt
  have hmin : t.alarmMin k = s.alarmMin k := hrf _ (by omega)
  have hhour : t.alarmHour k = s.alarmHour k := hrf _ (by omega)
  have hday : t.alarmDay k = s.alarmDay k := hrf _ (by omega)
  have hvalid : t.weekdayValid = s.weekdayValid := weekdayValid_congr (hrf 3 (by decide))
  simp only [State.alarmMatch, State.timeMatch, State.dayMatch, hvalid, hmin, hhour, hday, hdraws, hrf, Nat.reduceLT]

/-! ## The flags after `CHECK_ALARMS` (R140, R143) -/

/-- The flag of alarm `k` is set on a full match and otherwise stays. -/
theorem checkAlarms_flag (s : State) (k : Fin 6) :
    (checkAlarms s).rf[30].getLsbD k.val =
      (s.rf[30].getLsbD k.val
        || (decide (s.rf[1] = s.rf[8 + 3 * k.val]) && decide (s.rf[2] + 0x80 = s.rf[9 + 3 * k.val])
          && (s.rf[10 + 3 * k.val].getLsbD 7
            || (if 1 ≤ s.rf[3].toNat ∧ s.rf[3].toNat ≤ 7 then s.rf[10 + 3 * k.val].getLsbD (s.rf[3].toNat - 1)
                else Config.weekdayBit s.draws k.val)))) := by
  rw [checkAlarms_flags, BitVec.getLsbD_or, maskOf_bit]
  simp only [← weekdayValid_iff]
  rfl

/-- Bits 6 and 7 of the flag register stay. -/
theorem checkAlarms_flags_high (s : State) : (checkAlarms s).rf[30] &&& (0xC0 : Byte) = s.rf[30] &&& 0xC0 := by
  rw [checkAlarms_flags, BitVec.and_or_distrib_right, maskOf_high]
  exact BitVec.or_zero

/-- Two bytes that agree under the mask of bits 6 and 7 agree in each of them. -/
theorem getLsbD_of_high_eq {a b : Byte} (h : a &&& (0xC0 : Byte) = b &&& 0xC0) :
    a.getLsbD 6 = b.getLsbD 6 ∧ a.getLsbD 7 = b.getLsbD 7 := by
  have h6 := congrArg (BitVec.getLsbD · 6) h
  have h7 := congrArg (BitVec.getLsbD · 7) h
  simpa using And.intro h6 h7

/-- No flag is cleared. -/
theorem checkAlarms_flags_kept (s : State) : s.rf[30] &&& ~~~(checkAlarms s).rf[30] = 0 := by
  rw [checkAlarms_flags, BitVec.not_or, ← BitVec.and_assoc, raised_self]
  exact BitVec.zero_and

/-! ## What `CHECK_ALARMS` leaves alone (R150) -/

/-- With a weekday in 1 to 7 nothing is drawn, so offset 30 alone changes. -/
theorem checkAlarms_of_weekdayValid {s : State} (h : s.weekdayValid = true) :
    checkAlarms s = { s with rf := s.rf.set 30 (checkAlarms s).rf[30] } := by
  rw [checkAlarms_flags, checkAlarms, if_pos h]

/-- The offset space outside offset 30 is left alone. -/
theorem checkAlarms_peek_ne (s : State) {a : Byte} (hne : a ≠ 30) : (checkAlarms s).peek a = s.peek a := by
  rcases lt_or_ge a.toNat 31 with h | h
  · rw [peek_of_lt _ _ h, peek_of_lt _ _ h, checkAlarms_getElem s _ h fun heq => hne (BitVec.eq_of_toNat_eq heq)]
  · rw [peek_of_ge _ _ h, peek_of_ge _ _ h]

/-- The state with other contents of the configuration and the enable mask (R35, R36). -/
def State.withMasks (s : State) (x y : Byte) : State := { s with rf := (s.rf.set 28 x).set 29 y }

/-- The match does not read the configuration and the enable mask (R143). -/
theorem alarmMatch_withMasks (s : State) (x y : Byte) : (s.withMasks x y).alarmMatch = s.alarmMatch := by
  refine alarmMatch_congr (fun i h => ?_) rfl
  have h28 : 28 ≠ i := by omega
  have h29 : 29 ≠ i := by omega
  simp [State.withMasks, h28, h29]

/-- `CHECK_ALARMS` does the same under any configuration and enable mask (R143). -/
theorem checkAlarms_withMasks (s : State) (x y : Byte) : checkAlarms (s.withMasks x y) = (checkAlarms s).withMasks x y := by
  have hflags : (s.withMasks x y).rf[30] = s.rf[30] := by simp [State.withMasks]
  have hvalid : (s.withMasks x y).weekdayValid = s.weekdayValid := weekdayValid_congr (by simp [State.withMasks])
  have hset (v : Byte) : (s.withMasks x y).rf.set 30 v = ((s.rf.set 30 v).set 28 x).set 29 y := by
    rw [State.withMasks, Vector.set_comm _ _ (by decide), Vector.set_comm (xs := s.rf) _ _ (by decide)]
  rw [checkAlarms, alarmMatch_withMasks, hflags, hvalid, hset]
  rfl

/-- Settles O44: with a weekday in 1 to 7 the weekday's bit is read and nothing is drawn. -/
theorem checkAlarmsSetsMatchingFlags : Obligations.CheckAlarmsSetsMatchingFlags := fun s h1 h7 => by
  obtain ⟨hbit6, hbit7⟩ := getLsbD_of_high_eq (checkAlarms_flags_high s)
  refine ⟨(checkAlarms s).rf[30], ?_, fun k => ?_, hbit6, hbit7⟩
  · exact congrArg _ (checkAlarms_of_weekdayValid ((weekdayValid_iff s).mpr ⟨h1, h7⟩))
  · rw [checkAlarms_flag, if_pos ⟨h1, h7⟩]

/-- Settles O45: the free value of alarm `k` is the draw of its weekday bit. -/
theorem alarmCheckNeverClears : Obligations.AlarmCheckNeverClears := fun s x y =>
  ⟨checkAlarms s, fun k => Config.weekdayBit s.draws k.val, rfl, rfl, fun _ hne => checkAlarms_peek_ne s hne,
    checkAlarms_flags_kept s, checkAlarms_flags_high s, checkAlarms_flag s, congrArg _ (checkAlarms_withMasks s x y)⟩

/-! ## The interrupt lines (R145 to R148) -/

/-- Alarm `k` fires when it is flagged and enabled (R145). -/
theorem firing_bit (s : State) (k : Fin 6) :
    s.firing.getLsbD k.val = (s.rf[30].getLsbD k.val && s.rf[29].getLsbD k.val) := by
  have hmask : (0x3F : Byte).getLsbD k.val = true := by revert k; decide
  rw [State.firing, BitVec.getLsbD_and, BitVec.getLsbD_and, hmask, Bool.and_true]

/-- No bit from 6 on belongs to an alarm (R147). -/
theorem firing_bit_high (s : State) {i : Nat} (h6 : 6 ≤ i) (h8 : i < 8) : s.firing.getLsbD i = false := by
  have hmask : (0x3F : Byte).getLsbD i = false := by interval_cases i <;> rfl
  rw [State.firing, BitVec.getLsbD_and, hmask, Bool.and_false]

/-- Some alarm fires when some alarm is flagged and enabled (R145). -/
theorem firing_ne_zero_iff (s : State) :
    s.firing ≠ 0 ↔ ∃ k : Fin 6, s.rf[30].getLsbD k.val = true ∧ s.rf[29].getLsbD k.val = true := by
  simp only [← Bool.and_eq_true, ← firing_bit]
  constructor
  · contrapose!
    intro hnone
    refine BitVec.eq_of_getLsbD_eq fun i h8 => ?_
    rcases lt_or_ge i 6 with h6 | h6
    · exact (Bool.eq_false_iff.mpr (hnone ⟨i, h6⟩)).trans BitVec.getLsbD_zero.symm
    · exact (firing_bit_high s h6 h8).trans BitVec.getLsbD_zero.symm
  · rintro ⟨k, hk⟩ hzero
    rw [hzero] at hk
    exact absurd (hk.symm.trans BitVec.getLsbD_zero) (by decide)

/-- The unison line after `DRIVE_INTERRUPTS` (R146). -/
theorem driveInterrupts_int (s : State) : (driveInterrupts s).out.int = (s.out.int || decide (s.firing ≠ 0)) := rfl

/-- Settles O47: an alarm drives its lines when it fires. -/
theorem driveInterruptsAssertsLines : Obligations.DriveInterruptsAssertsLines := fun s => by
  refine ⟨(driveInterrupts s).out, rfl, rfl, ?_, fun k => ?_⟩
  · rw [driveInterrupts_int, Bool.or_eq_true, decide_eq_true_iff, firing_ne_zero_iff]
  · rw [driveInterrupts_ded, firing_bit, Bool.and_assoc]

/-- Settles O48: lowering writes the six dedicated lines as one replicated 0. -/
theorem resetInterruptsLowersLines : Obligations.ResetInterruptsLowersLines := fun _ => rfl

end Sys2Proof.Machine
end

section
/-!
PROOFS. The Tick Scheduler (42_tick_scheduler.md R160 to R170): which action a `DRAIN` serves, what sixteen ticks do, and how the
deferred-work context runs out of work.
-/

namespace Sys2Proof.Machine

/-! ## What `DRAIN` serves (R165, R166) -/

/-- Settles O53: with no flag pending there is nothing to pick. -/
theorem drainWithNothingPending : Obligations.DrainWithNothingPending := fun c a r p s h => by
  show execDrain c a r p s = .next s
  rw [execDrain, pickAction_none h]

/-- With a flag pending `DRAIN` serves a pending action, perhaps after a draw. -/
theorem exec_drain_of_pending {s : State} (h : s.pend.any = true) (c a r p : Bool) :
    ∃ x n, s.pend.get x = true ∧ exec (.drain c a r p) s = .next (serve x { s with draws := n }) := by
  obtain ⟨⟨x, s1⟩, hpick⟩ := Option.isSome_iff_exists.mp (pickAction_isSome h)
  obtain ⟨hx, hs1⟩ := pickAction_some hpick
  refine ⟨x, s1.draws, hx, ?_⟩
  show execDrain c a r p s = _
  rw [execDrain, hpick, ← hs1]

/-- Settles O51: the action served is the pending one, and clearing its flag leaves the others. -/
theorem drainServesOnePendingAction : Obligations.DrainServesOnePendingAction := fun c a r p s h => by
  obtain ⟨x, n, hx, hdrain⟩ := exec_drain_of_pending h c a r p
  exact ⟨x, n, runAction x { s with draws := n }, serve x { s with draws := n }, hx, exec_actionInstr x _, hdrain, rfl,
    Pend.get_put_self _ x false, fun y hne => Pend.get_put_ne _ hne false⟩

/-- From second 59 the seconds roll to 00 (R122). -/
theorem CarryChain.sec_of_last {t : TimeRegs} {leap : Bool} {r : Advanced} (hr : CarryChain t leap r) (hs : t.sec = 0x59) :
    r.time.sec = 0x00 := by
  cases hr with
  | sec hne => exact absurd hs hne
  | min | hour => rfl
  | day _ hday => exact hday.timeOfDay.1

/-- `ADVANCE` at second 59 sets the seconds to 00 and requests a check (R122, R131). -/
theorem advance_of_lastSecond {s : State} (h : s.time.inDomain = true) (hsec : s.rf[0] = 0x59) :
    (advance s).rf[0] = 0x00 ∧ (advance s).pend = { s.pend with check := true } := by
  have hchain := advance_carryChain h
  constructor
  · show (advance s).time.sec = 0x00
    rw [advance_time h]
    exact hchain.sec_of_last hsec
  · have hrolled : (advanceTime s.time s.isLeap).rolled = true := hchain.rolled.trans (decide_eq_true hsec)
    rw [advance_inDomain h, hrolled, Bool.or_true]

/-- Settles O52: ADVANCE is the action served, and the clear of its flag is no write of CHECK. -/
theorem checkRequestSurvivesDrain : Obligations.CheckRequestSurvivesDrain := fun c a r p s h hsec hpend => by
  obtain ⟨x, n, hx, hdrain⟩ := exec_drain_of_pending (s := s) (by rw [hpend]; rfl) c a r p
  obtain rfl : x = .advance := by
    rw [hpend] at hx
    cases x with
    | advance => rfl
    | assert | reset | check => cases hx
  obtain ⟨hzero, hcheck⟩ := advance_of_lastSecond (s := { s with draws := n }) h hsec
  refine ⟨_, hdrain, hzero, ?_⟩
  show (advance { s with draws := n }).pend.put .advance false = _
  rw [hcheck, hpend]
  rfl

/-! ## Several ticks (R161, R163, R168) -/

/-- The phases (R105) of the next `n` ticks, from the counter on. -/
def tickPhases (c : Fin 16) : Nat → List Nat
  | 0 => []
  | n + 1 => (c.val + 1) :: tickPhases (c + 1) n

/-- The phases at which the square wave toggles (R163). -/
def togglesSqw (t : Nat) : Bool := decide (t = 8 ∨ t = 16)

/-- The state that `n` ticks with nothing between them lead to: each phase they pass raises its request or toggles the square wave. -/
def State.afterTicks (n : Nat) (s : State) : State :=
  { s with tick := (· + 1)^[n] s.tick
           pend := { s.pend with assert := s.pend.assert || (tickPhases s.tick n).contains 2
                                 reset := s.pend.reset || (tickPhases s.tick n).contains 6
                                 advance := s.pend.advance || (tickPhases s.tick n).contains 12 }
           out := { s.out with sqw := (!·)^[(tickPhases s.tick n).countP togglesSqw] s.out.sqw } }

/-- The counter after `TICK` wraps at 16 (R161). -/
theorem tickStep_tick_eq (s : State) : (tickStep s).tick = s.tick + 1 := Fin.ext (tickStep_tick s)

/-- A request is raised by the first tick or by one of those after it. -/
theorem request_cons (b : Bool) (k t : Nat) (l : List Nat) :
    (b || (t :: l).contains k) = (b || decide (t = k) || l.contains k) := by
  rw [List.contains_cons, Bool.or_assoc, BEq.comm]
  rfl

/-- The square wave is toggled by the first tick or left to those after it. -/
theorem toggles_cons (b : Bool) (t : Nat) (l : List Nat) :
    (!·)^[(t :: l).countP togglesSqw] b = (!·)^[l.countP togglesSqw] (if t = 8 ∨ t = 16 then !b else b) := by
  by_cases h : t = 8 ∨ t = 16
  · have htoggle : togglesSqw t = true := decide_eq_true h
    rw [List.countP_cons_of_pos htoggle, if_pos h, Function.iterate_succ_apply]
  · have hkeep : ¬togglesSqw t = true := mt of_decide_eq_true h
    rw [List.countP_cons_of_neg hkeep, if_neg h]

@[simp] theorem afterTicks_zero (s : State) : s.afterTicks 0 = s := by
  simp [State.afterTicks, tickPhases]

/-- One tick, then the others. -/
theorem afterTicks_succ (n : Nat) (s : State) : s.afterTicks (n + 1) = (tickStep s).afterTicks n := by
  simp only [State.afterTicks, tickPhases, request_cons, toggles_cons, tickStep_tick_eq, Function.iterate_succ_apply]
  rfl

/-- In a running block a tick event runs `TICK`. -/
theorem step_of_tick {s : State} {rest : List Input} (hp : s.powered = true) (hs : s.inputs = .tick :: rest) :
    step s = .next (tickStep { s with inputs := rest }) := by
  have hop : operationOf .tick { s with inputs := rest } = some (.tick (BitVec.ofNat 5 (s.tick.val + 1))) := if_pos hp
  rw [step_of_cons hs, stepInput_of_operation hop]
  rfl

/-- A run of ticks alone. -/
theorem runSteps_ticks (n : Nat) (rest : List Input) (s : State) (hp : s.powered = true)
    (hs : s.inputs = List.replicate n .tick ++ rest) : runSteps n s = .next { s.afterTicks n with inputs := rest } := by
  induction n generalizing s with
  | zero =>
    obtain rfl : s.inputs = rest := hs
    rw [afterTicks_zero]
    rfl
  | succ n ih =>
    rw [runSteps_succ (step_of_tick hp hs), afterTicks_succ]
    exact ih _ hp rfl

/-- Sixteen ticks bring the counter back (R161). -/
theorem tick_add_sixteen (c : Fin 16) : (· + 1)^[16] c = c := by
  revert c; decide

/-- Sixteen ticks pass the three phases that raise a request, and toggle the square wave twice (R161, R163). -/
theorem tickPhases_sixteen (c : Fin 16) :
    (tickPhases c 16).contains 2 = true ∧ (tickPhases c 16).contains 6 = true ∧ (tickPhases c 16).contains 12 = true
      ∧ (tickPhases c 16).countP togglesSqw = 2 := by
  revert c; decide

/-- Settles O50: every phase is passed once, from whichever the ticks start. -/
theorem sixteenTicksAreOneCycle : Obligations.SixteenTicksAreOneCycle := fun s rest hp hs => by
  obtain ⟨hassert, hreset, hadvance, htoggles⟩ := tickPhases_sixteen s.tick
  have htwice : (!·)^[2] s.out.sqw = s.out.sqw := Bool.not_not _
  rw [runSteps_ticks 16 rest s hp hs, State.afterTicks, tick_add_sixteen, htoggles, htwice]
  simp only [hassert, hreset, hadvance, Bool.or_true]

/-! ## The deferred-work context without events (R165, R167, log 10) -/

/-- How many more turns the pending flags can need: `ADVANCE` counts twice, since it may request a check (R131). -/
def Pend.turns (p : Pend) : Nat := p.assert.toNat + p.reset.toNat + 2 * p.advance.toNat + p.check.toNat

theorem Pend.turns_le (p : Pend) : p.turns ≤ 5 := by
  have hassert := p.assert.toNat_le
  have hreset := p.reset.toNat_le
  have hadvance := p.advance.toNat_le
  have hcheck := p.check.toNat_le
  rw [Pend.turns]
  omega

/-- No turn is needed when no flag is pending. -/
theorem Pend.turns_eq_zero (p : Pend) : p.turns = 0 ↔ p.any = false := by
  simp [Pend.turns, Pend.any, and_assoc]

/-- An engine operation writes no pending flag, but for `ADVANCE`, which may write CHECK (R131, R132). -/
theorem runAction_pend (x : PendAction) (s : State) :
    (runAction x s).pend = s.pend ∨ x = .advance ∧ (runAction x s).pend = { s.pend with check := (advance s).pend.check } := by
  cases x with
  | advance => exact .inr ⟨rfl, congrArg State.pend (advance_eq s)⟩
  | assert | reset | check => exact .inl rfl

/-- Clearing a pending flag saves a turn. -/
theorem Pend.turns_clear_lt {p : Pend} {x : PendAction} (h : p.get x = true) : (p.put x false).turns < p.turns := by
  cases x with
  | assert | reset | advance | check =>
    rw [Pend.get] at h
    simp [Pend.turns, Pend.put, h]

/-- Clearing ADVANCE saves a turn even when a check was requested. -/
theorem Pend.turns_clearAdvance_lt {p : Pend} (h : p.get .advance = true) (c : Bool) :
    (({ p with check := c } : Pend).put .advance false).turns < p.turns := by
  have hc := c.toNat_le
  have hadvance : p.advance = true := h
  simp only [Pend.turns, Pend.put, hadvance, Bool.toNat_true, Bool.toNat_false]
  omega

/-- Serving a pending action saves a turn. -/
theorem serve_turns_lt {x : PendAction} {s : State} (h : s.pend.get x = true) : (serve x s).pend.turns < s.pend.turns := by
  rw [serve, clearPend_pend]
  obtain hpend | ⟨rfl, hpend⟩ := runAction_pend x s
  · rw [hpend]
    exact Pend.turns_clear_lt h
  · rw [hpend]
    exact Pend.turns_clearAdvance_lt h _

/-- A running block for which no event is due. -/
structure State.Idle (s : State) : Prop where
  powered : s.powered = true
  inputs : s.inputs = []

/-- Serving an action delivers no event and keeps the power. -/
theorem State.Idle.idle_serve {s : State} (h : s.Idle) (x : PendAction) : (serve x s).Idle := by
  cases x with
  | advance => rw [serve, runAction, advance_eq]; exact ⟨h.powered, h.inputs⟩
  | assert | reset | check => exact ⟨h.powered, h.inputs⟩

/-- With a flag pending the next step of an idle block serves a pending action. -/
theorem State.Idle.step_serves {s : State} (h : s.Idle) (hp : s.pend.any = true) :
    ∃ x n, s.pend.get x = true ∧ step s = .next (serve x { s with draws := n }) := by
  obtain ⟨x, n, hx, hdrain⟩ := exec_drain_of_pending hp s.pend.check s.pend.advance s.pend.reset s.pend.assert
  have hop : operationOf (.drain none) s = some (.drain s.pend.check s.pend.advance s.pend.reset s.pend.assert) := by
    simp [operationOf, h.powered, hp]
  refine ⟨x, n, hx, ?_⟩
  rw [step_of_pending h.inputs hp, stepInput_of_operation hop, hdrain]
  rfl

/-- A step of an idle block saves a turn while one is needed. -/
theorem State.Idle.step_saves_turn {s : State} (h : s.Idle) : ∃ t, step s = .next t ∧ t.Idle ∧ t.pend.turns ≤ s.pend.turns - 1 := by
  cases hp : s.pend.any with
  | true =>
    obtain ⟨x, n, hx, hstep⟩ := h.step_serves hp
    have hidle : State.Idle { s with draws := n } := ⟨h.powered, h.inputs⟩
    exact ⟨_, hstep, hidle.idle_serve x, Nat.le_sub_one_of_lt (serve_turns_lt (s := { s with draws := n }) hx)⟩
  | false =>
    have hzero := s.pend.turns_eq_zero.mpr hp
    exact ⟨s, step_of_quiet h.inputs hp, h, by omega⟩

/-- As many steps of an idle block save as many turns. -/
theorem State.Idle.runSteps_saves_turns (k : Nat) {s : State} (h : s.Idle) :
    ∃ t, runSteps k s = .next t ∧ t.pend.turns ≤ s.pend.turns - k := by
  induction k generalizing s with
  | zero => exact ⟨s, rfl, le_rfl⟩
  | succ k ih =>
    obtain ⟨u, hstep, hidle, hsaved⟩ := h.step_saves_turn
    obtain ⟨t, hrun, hle⟩ := ih hidle
    exact ⟨t, (runSteps_succ hstep k).trans hrun, by omega⟩

/-- Settles O55: at most five turns are needed, and each step saves one. -/
theorem idleContextDrainsAll : Obligations.IdleContextDrainsAll := fun s hp hs => by
  obtain ⟨t, hrun, hle⟩ := State.Idle.runSteps_saves_turns 5 ⟨hp, hs⟩
  have hbound := s.pend.turns_le
  exact ⟨t, hrun, t.pend.turns_eq_zero.mp (by omega)⟩

end Sys2Proof.Machine
end

section
/-!
PROOFS. The Bus Protocol Engine (43_bus_protocol.md R180 to R201): every step completes, what each bus operation does, the eight
slots of a transmitted byte, and what a bus operation can change.
-/

namespace Sys2Proof.Machine

/-! ## Every step completes (R111, R200, R230) -/

/-- What follows an operation keeps a next state a next state. -/
theorem Completes.mapNext {o : Host.Outcome State Fault Refusal} (h : Completes o) (f : State → State) :
    Completes (mapNext f o) := by
  obtain ⟨t, rfl⟩ := h
  exact ⟨f t, rfl⟩

/-- An event has a next state: it enables an operation, which completes, or it is used up. -/
theorem stepInput_completes (e : Input) (s : State) : Completes (stepInput e s) := by
  cases hop : operationOf e s with
  | none => exact ⟨s, stepInput_of_noOperation hop⟩
  | some i =>
    rw [stepInput_of_operation hop]
    exact (exec_completes i s).mapNext _

/-- Settles O6: an event that is due has a next state, and with none due the state stays. -/
theorem everyStepCompletes : Obligations.EveryStepCompletes := fun s => by
  unfold step
  split
  · exact stepInput_completes _ _
  · exact ⟨s, rfl⟩

/-! ## The line in a slot (R181) -/

/-- When the slave releases the line, the others set its level. -/
theorem putSlot_released (m : Bool) (s : State) : putSlot m true s = { s with busOut := some ⟨true, m⟩, cond := none } := by
  rw [putSlot, Bool.and_true]

/-- When the slave pulls the line, it is low whatever the others do. -/
theorem putSlot_pulled (m : Bool) (s : State) : putSlot m false s = { s with busOut := some ⟨false, false⟩, cond := none } := by
  rw [putSlot, Bool.and_false]

/-! ## Start, stop and address slots (R182 to R187) -/

/-- Settles O8, by whether the phase was Idle. -/
theorem startBeginsAddressPhase : Obligations.StartBeginsAddressPhase := fun s => by
  show Host.Outcome.next (startTransaction s) = _
  by_cases h : s.phase = .idle
  · rw [startTransaction, if_pos h, if_pos h]; rfl
  · rw [startTransaction, if_neg h, if_neg h]; rfl

/-- Settles O9. -/
theorem stopReturnsToIdle : Obligations.StopReturnsToIdle := fun _ => rfl

/-- Settles O10: the slot's only effect is the released line. -/
theorem idleSlotIgnored : Obligations.IdleSlotIgnored := fun m s => congrArg Host.Outcome.next (putSlot_released m s)

/-- Assembling a bit is a shift to the left with the bit in bit 0 (R107). -/
theorem shiftIn_eq_shiftLeft_or (b : Byte) (m : Bool) : shiftIn b m = (b <<< 1) ||| (if m then 1 else 0) := by
  revert b m; decide

/-- Settles O11, by whether the slot is the eighth. -/
theorem addressBitShiftedIn : Obligations.AddressBitShiftedIn := fun a d s => by
  rw [← shiftIn_eq_shiftLeft_or]
  exact ⟨fun h => execSlotAddr_eighth h a d, fun h => execSlotAddr_early h a d⟩

/-- Settles O13: the slave pulls the line and begins to receive. -/
theorem writeAddressAcknowledged : Obligations.WriteAddressAcknowledged := fun a k s => by
  show execAddrAckW a k s = _
  rw [execAddrAckW, putSlot_pulled]

/-! ## Fetching the next byte (R187, R191, R218, R219) -/

/-- Up to offset 30 the byte at the cursor is fetched. -/
theorem fetchByte_of_lt {s : State} (h : s.cursor.toNat < 31) :
    fetchByte s = { s with shreg := s.rf[s.cursor.toNat], cursor := s.cursor + 1, sub := .data, bitcnt := 0 } := by
  obtain ⟨_, hread⟩ | ⟨hge, _⟩ := memRead_cases s.cursor s
  · rw [fetchByte_eq, hread]
  · exact absurd h hge.not_gt

/-- Above offset 30 a free byte is fetched (log 6). -/
theorem fetchByte_of_ge {s : State} (h : 31 ≤ s.cursor.toNat) :
    fetchByte s =
      { s with shreg := Config.loadByte s.draws, cursor := s.cursor + 1, sub := .data, bitcnt := 0, draws := s.draws + 1 } := by
  obtain ⟨hlt, _⟩ | ⟨_, hread⟩ := memRead_cases s.cursor s
  · exact absurd hlt h.not_gt
  · rw [fetchByte_eq, hread]

/-- What is fetched does not depend on the outputs of the slot. -/
theorem fetchByte_putSlot (m d : Bool) (s : State) : fetchByte (putSlot m d s) = putSlot m d (fetchByte s) := by
  by_cases h : s.cursor.toNat < 31
  · rw [fetchByte_of_lt h, fetchByte_of_lt (s := putSlot m d s) h]; rfl
  · rw [fetchByte_of_ge (Nat.not_lt.mp h), fetchByte_of_ge (s := putSlot m d s) (Nat.not_lt.mp h)]; rfl

/-- Settles O14: the slave pulls the line, and the offset decides which byte is fetched. -/
theorem readAddressFetchesByte : Obligations.ReadAddressFetchesByte := fun a k s => by
  show (∀ _, execAddrAckR a k s = _) ∧ (_ → ∃ _, execAddrAckR a k s = _)
  rw [execAddrAckR, fetchByte_putSlot, putSlot_pulled]
  exact ⟨fun h => by rw [fetchByte_of_lt h], fun h => ⟨Config.loadByte s.draws, by rw [fetchByte_of_ge h]⟩⟩

/-- Settles O23: the slave releases the line, and the offset decides which byte is fetched. -/
theorem masterAckFetchesByte : Obligations.MasterAckFetchesByte := fun s => by
  show (∀ _, execTxMack s = _) ∧ (_ → ∃ _, execTxMack s = _)
  rw [execTxMack, fetchByte_putSlot, putSlot_released]
  exact ⟨fun h => by rw [fetchByte_of_lt h], fun h => ⟨Config.loadByte s.draws, by rw [fetchByte_of_ge h]⟩⟩

/-- Settles O24. -/
theorem masterNackEndsTransfer : Obligations.MasterNackEndsTransfer := fun _ => rfl

/-! ## Receiving a byte (R188, R189, R211, R212) -/

/-- Before the eighth slot a received bit is shifted in and counted (R188). -/
theorem execRxBit_early {s : State} (h : s.bitcnt ≠ 7) (m : Bool) :
    execRxBit m s =
      .next { s with shreg := shiftIn s.shreg m, bitcnt := s.bitcnt + 1, busOut := some ⟨true, m⟩, cond := none } := by
  simp only [execRxBit, if_neg h, putSlot_released]

/-- The offset byte loads the cursor and is accepted (R211, R220). -/
theorem execRxOffset_eq (o : Byte) (s : State) :
    execRxOffset o s =
      .next { s with
        cursor := o, bytecnt := 1, shreg := o, rxok := true, sub := .ack, bitcnt := 0
        busOut := some ⟨true, o.getLsbD 0⟩, cond := none } := by
  rw [execRxOffset, putSlot_released]; rfl

/-- A data byte is stored at the cursor, the cursor advances, and the byte is accepted (R212, R220). -/
theorem execRxData_eq (d : Byte) (s : State) :
    execRxData d s =
      .next { memWrite s.cursor d s with
        cursor := s.cursor + 1, shreg := d, rxok := true, sub := .ack, bitcnt := 0
        busOut := some ⟨true, d.getLsbD 0⟩, cond := none } := by
  rw [execRxData, onReceiveData, putSlot_cursor, memWrite_putSlot, putSlot_released, memWrite_eq]; rfl

/-- Settles O17: the eighth slot completes the byte, whose place in the transaction says where it goes. -/
theorem receivedBitShiftedIn : Obligations.ReceivedBitShiftedIn := fun m s => by
  intro b
  have hb : shiftIn s.shreg m = b := shiftIn_eq_shiftLeft_or s.shreg m
  refine ⟨fun h => ?_, fun h7 h0 => ?_, fun h7 h1 => ?_⟩
  · exact hb ▸ execRxBit_early h m
  · have hoffset := (execRxBit_eighth_offset m s h7 h0).trans (execRxOffset_eq _ s)
    rw [shiftIn_bit0, hb] at hoffset
    exact hoffset
  · have h0 : s.bytecnt ≠ 0 := by rw [h1]; decide
    have hdata := execRxBit_eighth_data m s h7 h0
    rw [hb] at hdata
    exact ⟨_, hdata.trans (execRxData_eq b s), execRxData_eq b s, rfl⟩

/-- Settles O21, by the result of the receive callback. -/
theorem receivedByteAcknowledged : Obligations.ReceivedByteAcknowledged := fun k s => by
  show (_ → execRxAck k s = _) ∧ (_ → execRxAck k s = _)
  refine ⟨fun h => ?_, fun h => ?_⟩
  · simp only [execRxAck, h, ↓reduceIte, Bool.not_true, putSlot_pulled]
  · simp only [execRxAck, h, Bool.false_eq_true, ↓reduceIte, Bool.not_false, putSlot_released, abort, raiseCondition]

/-! ## Transmitting a byte (R190, R191) -/

/-- A data slot of a transmitted byte: the count wraps at the eighth, after which the acknowledge slot comes. -/
theorem execTxBit_eq (m : Bool) (s : State) :
    execTxBit m s =
      .next { s with
        sub := if s.bitcnt = 7 then .ack else s.sub, bitcnt := s.bitcnt + 1
        busOut := some ⟨s.shreg.getLsbD (7 - s.bitcnt.val), m && s.shreg.getLsbD (7 - s.bitcnt.val)⟩, cond := none } := by
  by_cases h : s.bitcnt = 7
  · have hwrap : s.bitcnt + 1 = 0 := by rw [h]; rfl
    simp only [execTxBit, if_pos h, hwrap]; rfl
  · simp only [execTxBit, if_neg h]; rfl

/-- Settles O22, by whether the slot is the eighth. -/
theorem transmittedBitDriven : Obligations.TransmittedBitDriven := fun m s => by
  show (_ → execTxBit m s = _) ∧ (_ → execTxBit m s = _)
  rw [execTxBit_eq]
  refine ⟨fun h => ?_, fun h => ?_⟩
  · have hwrap : s.bitcnt + 1 = 0 := by rw [h]; rfl
    rw [if_pos h, hwrap]
  · rw [if_neg h]

/-- A slot runs no engine operation. -/
theorem slotOperation_action (m : Bool) (s : State) : (slotOperation m s).action? = none := by
  unfold slotOperation
  cases s.phase with
  | idle | addressPhase => rfl
  | addressCheck => split_ifs <;> rfl
  | receiverMode =>
    cases s.sub with
    | data => split_ifs <;> rfl
    | ack => rfl
  | transmitterMode =>
    cases s.sub with
    | data => rfl
    | ack => cases m <;> rfl

/-- In a running block a slot runs the operation of the phase and sub-phase (R110). -/
theorem step_of_slot {s : State} {m : Bool} {rest : List Input} (hp : s.powered = true) (hs : s.inputs = .slot m :: rest) :
    step s = exec (slotOperation m s) { s with inputs := rest } := by
  have hop : operationOf (.slot m) { s with inputs := rest } = some (slotOperation m s) := if_pos hp
  rw [step_of_cons hs, stepInput_of_operation hop]
  obtain ⟨t, ht⟩ := exec_completes (slotOperation m s) { s with inputs := rest }
  rw [ht, mapNext, afterExec_of_none (slotOperation_action m s)]

/-- A running block that is sending the data bits of a byte. -/
structure State.Sending (s : State) : Prop where
  powered : s.powered = true
  phase : s.phase = .transmitterMode
  sub : s.sub = .data

/-- A slot of a block that is sending runs `TX.BIT`. -/
theorem State.Sending.step_txBit {s : State} (h : s.Sending) {m : Bool} {rest : List Input}
    (hs : s.inputs = .slot m :: rest) : step s = execTxBit m { s with inputs := rest } := by
  have hop : slotOperation m s = .txBit m := by rw [slotOperation, h.phase, h.sub]
  rw [step_of_slot h.powered hs, hop]
  rfl

/-- Slots of a block that is sending, `ms` and a last one, that bring the count to `c`: in the last the slave drives bit `7 - c`. -/
theorem State.Sending.runSteps_txBits (ms : List Bool) (m : Bool) (rest : List Input) (c : Fin 8) {s : State} (h : s.Sending)
    (hcount : s.bitcnt.val + ms.length = c.val) (hs : s.inputs = (ms ++ [m]).map .slot ++ rest) :
    runSteps (ms.length + 1) s = .next { s with
      sub := if c = 7 then .ack else .data, bitcnt := c + 1
      busOut := some ⟨s.shreg.getLsbD (7 - c.val), m && s.shreg.getLsbD (7 - c.val)⟩, cond := none, inputs := rest } := by
  induction ms generalizing s with
  | nil =>
    obtain rfl : s.bitcnt = c := Fin.ext hcount
    rw [← h.sub]
    exact runSteps_succ ((h.step_txBit hs).trans (execTxBit_eq m { s with inputs := rest })) 0
  | cons m' ms ih =>
    rw [List.length_cons] at hcount
    have hlt : s.bitcnt.val < 7 := by omega
    have hnext : (s.bitcnt + 1).val = s.bitcnt.val + 1 := Fin.val_add_one_of_lt' (by omega)
    have hsub : (if s.bitcnt = 7 then Sub.ack else s.sub) = .data := (if_neg (Fin.ne_of_lt hlt)).trans h.sub
    have hstep := (h.step_txBit hs).trans (execTxBit_eq m' _)
    rw [List.length_cons, runSteps_succ hstep]
    exact ih ⟨h.powered, h.phase, hsub⟩ (by rw [hnext]; omega) rfl

/-- Eight slots in which the master releases the line, cut behind slot number `k`. -/
theorem releasedSlots_split {k : Nat} (hk : k < 8) (rest : List Input) :
    List.replicate 8 (.slot true) ++ rest =
      (List.replicate k true ++ [true]).map .slot ++ (List.replicate (7 - k) (.slot true) ++ rest) := by
  have hlen : 8 = k + 1 + (7 - k) := by omega
  rw [← List.replicate_succ', List.map_replicate, ← List.append_assoc, List.replicate_append_replicate, ← hlen]

/-- The master's acknowledge makes a block send the byte at the cursor (R191, R219). -/
theorem step_txMack {s : State} {rest : List Input} (hp : s.powered = true) (hphase : s.phase = .transmitterMode)
    (hsub : s.sub = .ack) (hs : s.inputs = .slot false :: rest) (h : s.cursor.toNat < 31) :
    step s = .next { s with
      sub := .data, bitcnt := 0, shreg := s.rf[s.cursor.toNat], cursor := s.cursor + 1
      busOut := some ⟨true, false⟩, cond := none, inputs := rest } := by
  have hop : slotOperation false s = .txMack := by rw [slotOperation, hphase, hsub]; rfl
  rw [step_of_slot hp hs, hop]
  exact (masterAckFetchesByte { s with inputs := rest }).1 h

/-- Settles O25: the master's acknowledge fetches the byte at the cursor, and each slot drives the bit that the count has
come to. -/
theorem nextByteReadFromCursor : Obligations.NextByteReadFromCursor := fun s rest k hp hphase hsub hs hk h => by
  have hfetch := step_txMack hp hphase hsub hs h
  have hrun := State.Sending.runSteps_txBits (List.replicate k true) true (List.replicate (7 - k) (.slot true) ++ rest) ⟨k, hk⟩
    (s := { s with
      sub := .data, bitcnt := 0, shreg := s.rf[s.cursor.toNat], cursor := s.cursor + 1
      busOut := some ⟨true, false⟩, cond := none, inputs := List.replicate 8 (.slot true) ++ rest })
    ⟨hp, hphase, rfl⟩ (by simp) (releasedSlots_split hk rest)
  rw [List.length_replicate] at hrun
  refine ⟨_, (runSteps_succ hfetch (k + 1)).trans hrun, rfl, rfl, by rw [Bool.true_and], ?_⟩
  exact if_congr Fin.ext_iff rfl rfl

/-! ## What a bus operation can change (R201) -/

/-- A store leaves every other offset alone (R213 to R217). -/
theorem memWrite_peek_ne {o a : Byte} (h : a ≠ o) (b : Byte) (s : State) : (memWrite o b s).peek a = s.peek a := by
  have hne : o.toNat ≠ a.toNat := fun he => h (BitVec.eq_of_toNat_eq he.symm)
  unfold State.peek
  split
  · rw [memWrite_getElem_ne _ hne]
  · rfl

/-- A store changes the leap cache at offset 6 alone, and under the open parameter (R217). -/
theorem memWrite_isLeap_ne {o b : Byte} {s : State} (h : (memWrite o b s).isLeap ≠ s.isLeap) :
    o = 6 ∧ Config.leapRefreshOnYearWrite = true := by
  by_contra hhook
  refine h ?_
  obtain ⟨_, hw⟩ | ⟨_, hw⟩ | ⟨_, _, hw⟩ := memWrite_cases o b s
  · rw [hw, yearWriteHook, if_neg hhook, poke_eq]
  · rw [hw, poke_eq]
  · rw [hw]

/-- The operation delivers the offset byte (R188, R211). -/
inductive LoadsOffset (s : State) : Instr → Prop
  | whole (o : Byte) : LoadsOffset s (.rxOffset o)
  | eighth (m : Bool) : s.bitcnt = 7 → s.bytecnt = 0 → LoadsOffset s (.rxBit m)

/-- The operation fetches the byte at the cursor (R187, R191). -/
inductive FetchesByte : Instr → Prop
  | readAddress (a : SlaveAddr) (k : Bool) : FetchesByte (.addrAckR a k)
  | masterAck : FetchesByte .txMack

/-- The state with the bus engine's working state (R42), the outputs and the label of another. -/
def State.withWorkOf (s t : State) : State :=
  { s with phase := t.phase, sub := t.sub, bitcnt := t.bitcnt, shreg := t.shreg, rxok := t.rxok
           busOut := t.busOut, cond := t.cond }

/-- What a bus operation can do beyond the engine's working state (R201). -/
inductive BusEffect (i : Instr) (s t : State) : Prop
  /-- Nothing. -/
  | working : t = s.withWorkOf t → BusEffect i s t
  /-- The byte count restarts (R210). -/
  | started : i = .start → t = State.withWorkOf { s with bytecnt := 0 } t → BusEffect i s t
  /-- The byte received is the offset (R211). -/
  | offset : LoadsOffset s i → t = State.withWorkOf { s with cursor := t.shreg, bytecnt := 1 } t → BusEffect i s t
  /-- The byte received is stored at the cursor, which advances (R212). -/
  | stored (b : Byte) : StoresByte s b i → t = State.withWorkOf { memWrite s.cursor b s with cursor := s.cursor + 1 } t →
      BusEffect i s t
  /-- The byte at the cursor is fetched, and the cursor advances (R219). -/
  | fetched : FetchesByte i → t = State.withWorkOf { s with cursor := s.cursor + 1, draws := t.draws } t → BusEffect i s t

/-- A received bit belongs to the working state, or completes the offset byte or a data byte (R188). -/
theorem busEffect_rxBit {m : Bool} {s t : State} (h : execRxBit m s = .next t) : BusEffect (.rxBit m) s t := by
  by_cases h7 : s.bitcnt = 7
  · by_cases h0 : s.bytecnt = 0
    · rw [execRxBit_eighth_offset m s h7 h0, execRxOffset_eq] at h
      cases h
      exact .offset (.eighth m h7 h0) rfl
    · rw [execRxBit_eighth_data m s h7 h0, execRxData_eq] at h
      cases h
      exact .stored _ (.eighth m h7 h0 rfl) rfl
  · rw [execRxBit_early h7] at h
    cases h
    exact .working rfl

/-- Fetching a byte in a slot, whatever becomes of the phase. -/
theorem busEffect_fetchByte {i : Instr} (hi : FetchesByte i) (m d : Bool) (p : Phase) (s : State) :
    BusEffect i s { fetchByte (putSlot m d s) with phase := p } := by
  refine .fetched hi ?_
  rw [fetchByte_eq]
  rfl

/-- Every bus operation has one of the five effects. -/
theorem exec_busEffect {i : Instr} {s t : State} (hbus : i.isBus = true) (h : exec i s = .next t) : BusEffect i s t := by
  cases i with
  | start => rw [startBeginsAddressPhase s] at h; cases h; exact .started rfl rfl
  | rxBit m => exact busEffect_rxBit h
  | rxOffset o => cases h; exact .offset (.whole o) rfl
  | rxData d => cases (execRxData_eq d s).symm.trans h; exact .stored d .whole rfl
  | addrAckR a k => cases h; exact busEffect_fetchByte (.readAddress a k) k false _ s
  | txMack => cases h; exact busEffect_fetchByte .masterAck false true _ s
  | stop | slotIdle | addrAckW | addrNack | txMnack => cases h; exact .working rfl
  | slotAddr | rxAck | txBit => cases h; refine .working ?_; split <;> rfl
  | tick | drain | driveInterrupts | resetInterrupts | advance | checkAlarms | reset => cases hbus

/-- Where a data byte is stored, in the words of R201: the byte count has one value but 0. -/
theorem StoresByte.place {s : State} {b : Byte} {i : Instr} (h : StoresByte s b i) :
    (∃ d, i = .rxData d) ∨ ((∃ m, i = .rxBit m) ∧ s.bitcnt = 7 ∧ s.bytecnt = 1) := by
  cases h with
  | whole => exact .inl ⟨b, rfl⟩
  | eighth m h7 h0 _ => exact .inr ⟨⟨m, rfl⟩, h7, Fin.eq_one_of_ne_zero _ h0⟩

/-- Where the offset byte arrives, in the words of R201. -/
theorem LoadsOffset.place {s : State} {i : Instr} (h : LoadsOffset s i) :
    (∃ o, i = .rxOffset o) ∨ ((∃ m, i = .rxBit m) ∧ s.bitcnt = 7 ∧ s.bytecnt = 0) := by
  cases h with
  | whole o => exact .inl ⟨o, rfl⟩
  | eighth m h7 h0 => exact .inr ⟨⟨m, rfl⟩, h7, h0⟩

/-- Where a byte is fetched, in the words of R201. -/
theorem FetchesByte.place {i : Instr} (h : FetchesByte i) : (∃ a k, i = .addrAckR a k) ∨ i = .txMack := by
  cases h with
  | readAddress a k => exact .inl ⟨a, k, rfl⟩
  | masterAck => exact .inr rfl

/-- Settles O28, by the five effects of a bus operation. -/
theorem busOperationFrame : Obligations.BusOperationFrame := fun i s t hbus h => by
  intro storesByte loadsOffset fetches
  cases exec_busEffect hbus h with
  | working ht =>
    rw [ht]
    exact ⟨rfl, rfl, rfl, rfl, rfl, rfl, fun _ _ => rfl, absurd rfl, absurd rfl, absurd rfl, absurd rfl⟩
  | started hi ht =>
    rw [ht]
    exact ⟨rfl, rfl, rfl, rfl, rfl, rfl, fun _ _ => rfl, absurd rfl, absurd rfl, absurd rfl, fun _ => .inl ⟨hi, rfl⟩⟩
  | offset hi ht =>
    rw [ht]
    exact ⟨rfl, rfl, rfl, rfl, rfl, rfl, fun _ _ => rfl, absurd rfl, absurd rfl, fun _ => .inl ⟨hi.place, rfl⟩,
      fun _ => .inr ⟨hi.place, rfl⟩⟩
  | fetched hi ht =>
    rw [ht]
    exact ⟨rfl, rfl, rfl, rfl, rfl, rfl, fun _ _ => rfl, absurd rfl, absurd rfl, fun _ => .inr ⟨.inr hi.place, rfl⟩,
      absurd rfl⟩
  | stored b hi ht =>
    have hpeek (a : Byte) (ha : a ≠ s.cursor) := memWrite_peek_ne ha b s
    have hleap := memWrite_isLeap_ne (o := s.cursor) (b := b) (s := s)
    rw [ht, memWrite_eq]
    exact ⟨rfl, rfl, rfl, rfl, rfl, rfl, hpeek, fun _ => hi.place, fun hne => ⟨hi.place, hleap hne⟩,
      fun _ => .inr ⟨.inl hi.place, rfl⟩, absurd rfl⟩

end Sys2Proof.Machine
end

section
/-!
PROOFS. Register access (44_bus_register_access.md R210 to R224): the whole received bytes, and the three kinds of transaction, run
slot by slot from `START` to `STOP`.
-/

namespace Sys2Proof.Machine

/-! ## Whole received bytes (R211 to R217) -/

/-- Settles O18. -/
theorem offsetByteLoadsCursor : Obligations.OffsetByteLoadsCursor := execRxOffset_eq

/-- The offsets that keep a host store unchanged (R213). -/
theorem storable_iff (o : Byte) : storable o = true ↔ o.toNat ≤ 25 ∨ o = 28 ∨ o = 29 := by
  simp only [storable, Bool.or_eq_true, decide_eq_true_eq, beq_iff_eq, or_assoc]

/-- What a store leaves at its offset, by the write policy (R213 to R216). -/
theorem memWrite_peek_self (o b : Byte) (s : State) :
    (memWrite o b s).peek o =
      if o.toNat ≤ 25 ∨ o = 28 ∨ o = 29 then some b else if o = 30 then some (b &&& s.rf[30]) else s.peek o := by
  simp only [← storable_iff]
  obtain ⟨hs, hw⟩ | ⟨rfl, hw⟩ | ⟨hs, h30, hw⟩ := memWrite_cases o b s
  · have hlt : o.toNat < 31 := by
      obtain h | rfl | rfl := (storable_iff o).mp hs
      · omega
      · decide
      · decide
    rw [if_pos hs, hw, peek_congr (yearWriteHook_rf o _), peek_poke_self _ _ _ hlt]
  · rw [if_neg (by decide), if_pos rfl, hw, peek_poke_self _ _ _ (by decide), keepMask]
  · rw [if_neg (Bool.eq_false_iff.mp hs), if_neg h30, hw]

/-- What a store makes of the leap cache (R217). -/
theorem memWrite_isLeap (o b : Byte) (s : State) :
    (memWrite o b s).isLeap = if o = 6 ∧ Config.leapRefreshOnYearWrite = true then leapTest b else s.isLeap := by
  by_cases h : o = 6 ∧ Config.leapRefreshOnYearWrite = true
  · have hslot : (s.poke o b).rf[6] = b := by
      rw [h.1]
      exact poke_getElem_self (o := 6) (by decide) b s
    have hs : storable o = true := by rw [h.1]; rfl
    rw [memWrite_of_storable hs, yearWriteHook, if_pos h, if_pos h, hslot]
  · rw [if_neg h]
    exact not_imp_comm.mp memWrite_isLeap_ne h

/-- Settles O19: the policy says what the store leaves at the cursor, in the other offsets and in the leap cache. -/
theorem dataByteStoredUnderPolicy : Obligations.DataByteStoredUnderPolicy := fun d s => by
  refine ⟨_, execRxData_eq d s, ?_, fun a ha => ?_, ?_, memWrite_isLeap s.cursor d s⟩
  · rw [memWrite_eq]
  · exact memWrite_peek_ne ha d s
  · exact memWrite_peek_self s.cursor d s

/-! ## Runs and conditions -/

/-- Steps after steps. -/
theorem runSteps_add {j : Nat} {s t : State} (h : runSteps j s = .next t) (k : Nat) : runSteps (j + k) s = runSteps k t := by
  induction j generalizing s with
  | zero => cases h; rw [Nat.zero_add]
  | succ j ih =>
    obtain ⟨u, hu⟩ := everyStepCompletes s
    rw [runSteps_succ hu] at h
    rw [Nat.add_right_comm, runSteps_succ hu, ih h]

theorem runSteps_one {s t : State} (h : step s = .next t) : runSteps 1 s = .next t := runSteps_succ h 0

/-- In a running block a start condition begins an address phase (R182). -/
theorem step_of_start {s : State} {rest : List Input} (hp : s.powered = true) (hs : s.inputs = .start :: rest) :
    step s = .next { s with
      phase := .addressPhase, bitcnt := 0, shreg := 0x00, bytecnt := 0, busOut := none
      cond := if s.phase = .idle then none else some .protocolReset, inputs := rest } := by
  have hop : operationOf .start { s with inputs := rest } = some .start := if_pos hp
  rw [step_of_cons hs, stepInput_of_operation hop, startBeginsAddressPhase]
  rfl

/-- In a running block a stop condition returns to Idle (R183). -/
theorem step_of_stop {s : State} {rest : List Input} (hp : s.powered = true) (hs : s.inputs = .stop :: rest) :
    step s = .next { s with phase := .idle, busOut := none, cond := none, inputs := rest } := by
  have hop : operationOf .stop { s with inputs := rest } = some .stop := if_pos hp
  rw [step_of_cons hs, stepInput_of_operation hop]
  rfl

/-! ## The address frame (R93, R185 to R187) -/

theorem addrOf_addressByte (a : SlaveAddr) (read : Bool) : addrOf (addressByte a read) = a := by
  revert a read; decide

theorem dirOf_addressByte (a : SlaveAddr) (read : Bool) : dirOf (addressByte a read) = read := by
  revert a read; decide

/-- The block in AddressCheck, the address byte `b` received. -/
def State.addressed (b : Byte) (rest : List Input) (s : State) : State :=
  { s with phase := .addressCheck, bitcnt := 0, shreg := b, bytecnt := 0, busOut := some ⟨true, b.getLsbD 0⟩, cond := none
           inputs := rest }

/-- A start condition and the eight data slots of an address byte. -/
theorem runSteps_address {s : State} {b : Byte} {rest : List Input} (hp : s.powered = true)
    (hs : s.inputs = .start :: (byteSlots b ++ rest)) : runSteps 9 s = .next (s.addressed b rest) :=
  (runSteps_succ (step_of_start hp hs) 8).trans (addressByteAssembled _ b rest hp rfl rfl rfl)

/-- The acknowledge slot of an address byte runs the operation that the comparison selects (R186). -/
theorem step_addressed {s : State} (hp : s.powered = true) (b : Byte) (rest : List Input) :
    step (s.addressed b (.slot true :: rest)) =
      exec (if addrOf b = s.ownAddr then (if dirOf b then .addrAckR s.ownAddr true else .addrAckW s.ownAddr true)
        else .addrNack (addrOf b) (dirOf b) true) (s.addressed b rest) :=
  step_of_slot (s := s.addressed b (.slot true :: rest)) hp rfl

/-- An address byte for another block returns to Idle (R231). -/
theorem step_addressed_other {s : State} (hp : s.powered = true) {b : Byte} (h : addrOf b ≠ s.ownAddr) (rest : List Input) :
    step (s.addressed b (.slot true :: rest)) =
      .next { s.addressed b rest with phase := .idle, busOut := some ⟨true, true⟩, cond := some .addressMismatch } := by
  rw [step_addressed hp, if_neg h]
  rfl

/-- The block addressed for writing, ready to receive the offset byte (R187). -/
def State.writeAddressed (rest : List Input) (s : State) : State :=
  { s.addressed (addressByte s.ownAddr false) rest with phase := .receiverMode, sub := .data, busOut := some ⟨false, false⟩ }

/-- The own address with the write bit begins to receive (R187). -/
theorem step_addressed_write {s : State} (hp : s.powered = true) (rest : List Input) :
    step (s.addressed (addressByte s.ownAddr false) (.slot true :: rest)) = .next (s.writeAddressed rest) := by
  rw [step_addressed hp, addrOf_addressByte, dirOf_addressByte, if_pos rfl]
  exact writeAddressAcknowledged _ _ _

/-- The own address with the read bit fetches the byte at the cursor and begins to send (R187). -/
theorem step_addressed_read {s : State} (hp : s.powered = true) (rest : List Input) :
    step (s.addressed (addressByte s.ownAddr true) (.slot true :: rest)) =
      .next { fetchByte (putSlot true false (s.addressed (addressByte s.ownAddr true) rest)) with phase := .transmitterMode } := by
  rw [step_addressed hp, addrOf_addressByte, dirOf_addressByte, if_pos rfl]
  rfl

/-! ## A transaction for another address (R198, R224) -/

/-- Slots in Idle are ignored (R184). -/
theorem runSteps_idleSlots (ms : List Bool) (rest : List Input) {s : State} (hp : s.powered = true) (hphase : s.phase = .idle)
    (hs : s.inputs = ms.map .slot ++ rest) :
    ∃ o c, runSteps ms.length s = .next { s with busOut := o, cond := c, inputs := rest } := by
  induction ms generalizing s with
  | nil =>
    obtain rfl : s.inputs = rest := hs
    exact ⟨s.busOut, s.cond, rfl⟩
  | cons m ms ih =>
    have hop : slotOperation m s = .slotIdle m := by rw [slotOperation, hphase]
    have hstep := step_of_slot hp hs
    rw [hop, idleSlotIgnored] at hstep
    obtain ⟨o, c, hrun⟩ := ih (s := { s with busOut := some ⟨true, m⟩, cond := none, inputs := ms.map .slot ++ rest })
      hp hphase rfl
    exact ⟨o, c, (runSteps_succ hstep ms.length).trans hrun⟩

/-- Settles O16: the mismatch leaves the block in Idle, where it ignores the slots that follow. -/
theorem otherAddressIgnored : Obligations.OtherAddressIgnored := fun s v ms rest hp hother hs => by
  have hsplit : addressedSlots v ms ++ rest = .start :: (byteSlots v ++ (.slot true :: (ms.map .slot ++ rest))) := by
    simp [addressedSlots, byteFrame]
  have haddress := runSteps_address hp (hs.trans hsplit)
  have hmismatch := step_addressed_other hp hother (ms.map .slot ++ rest)
  obtain ⟨o, c, hidle⟩ := runSteps_idleSlots ms rest
    (s := { s.addressed v (ms.map .slot ++ rest) with
      phase := .idle, busOut := some ⟨true, true⟩, cond := some .addressMismatch }) hp rfl rfl
  refine ⟨{ s.addressed v rest with phase := .idle, busOut := o, cond := c }, ?_, rfl, rfl, rfl, rfl⟩
  have hcount : 10 + ms.length = 9 + (ms.length + 1) := by omega
  rw [hcount]
  exact (runSteps_add haddress _).trans ((runSteps_succ hmismatch _).trans hidle)

/-! ## A received byte (R188, R189) -/

/-- The state with the Register File and the leap cache of another. -/
def State.withRegisters (s u : State) : State := { s with rf := u.rf, isLeap := u.isLeap }

/-- A store reads and writes the Register File and the leap cache alone. -/
theorem memWrite_withRegisters (o b : Byte) (s u : State) :
    memWrite o b (s.withRegisters u) = s.withRegisters (memWrite o b u) := by
  simp only [memWrite, yearWriteHook, State.poke, State.withRegisters]
  split_ifs <;> rfl

/-- The block after some slots of a byte: the assembled bits and their count, the outputs and the schedule have changed. -/
def State.shifted (x : Byte) (n : Fin 8) (o : Option BusOut) (c : Option Condition) (rest : List Input) (s : State) : State :=
  { s with shreg := x, bitcnt := n, busOut := o, cond := c, inputs := rest }

/-- The receive callback neither reads nor writes what slots have changed. -/
theorem onReceive_shifted (b x : Byte) (n : Fin 8) (o : Option BusOut) (c : Option Condition) (rest : List Input) (s : State) :
    (onReceive b (s.shifted x n o c rest)).2 = (onReceive b s).2.shifted x n o c rest := by
  by_cases h0 : s.bytecnt = 0
  · have h0' : (s.shifted x n o c rest).bytecnt = 0 := h0
    rw [onReceive, onReceive, if_pos h0, if_pos h0']
    rfl
  · have h0' : ¬(s.shifted x n o c rest).bytecnt = 0 := h0
    have hstore : memWrite s.cursor b (s.shifted x n o c rest) = (s.shifted x n o c rest).withRegisters (memWrite s.cursor b s) :=
      memWrite_withRegisters s.cursor b (s.shifted x n o c rest) s
    rw [onReceive, onReceive, if_neg h0, if_neg h0', onReceiveData, onReceiveData, memWrite_eq s.cursor b s]
    exact congrArg advanceCursor hstore

/-- The receive callback leaves the power and the phase alone. -/
theorem onReceive_place (b : Byte) (s : State) :
    (onReceive b s).2.powered = s.powered ∧ (onReceive b s).2.phase = s.phase := by
  obtain ⟨_, h⟩ | ⟨_, h⟩ := onReceive_cases b s
  · rw [h]; exact ⟨rfl, rfl⟩
  · rw [h, memWrite_eq]; exact ⟨rfl, rfl⟩

/-- A running block that is receiving the data bits of a byte. -/
structure State.Receiving (s : State) : Prop where
  powered : s.powered = true
  phase : s.phase = .receiverMode
  sub : s.sub = .data

/-- A slot of a block that is receiving does what `RX.BIT` does, the eighth included (R188, log 12). -/
theorem State.Receiving.step_rxBit {s : State} (h : s.Receiving) {m : Bool} {rest : List Input}
    (hs : s.inputs = .slot m :: rest) : step s = execRxBit m { s with inputs := rest } := by
  have hop : slotOperation m s =
      if s.bitcnt = 7 then (if s.bytecnt = 0 then .rxOffset (shiftIn s.shreg m) else .rxData (shiftIn s.shreg m))
      else .rxBit m := by rw [slotOperation, h.phase, h.sub]
  rw [step_of_slot h.powered hs, hop]
  split_ifs with h7 h0
  · exact (execRxBit_eighth_offset m { s with inputs := rest } h7 h0).symm
  · exact (execRxBit_eighth_data m { s with inputs := rest } h7 h0).symm
  · rfl

/-- Slots of a block that is receiving, up to the seventh: their bits are shifted in. -/
theorem State.Receiving.runSteps_rxBits (ms : List Bool) (rest : List Input) {s : State} (h : s.Receiving)
    (hcount : s.bitcnt.val + ms.length = 7) (hs : s.inputs = ms.map .slot ++ rest) :
    ∃ o c, runSteps ms.length s = .next (s.shifted (ms.foldl shiftIn s.shreg) 7 o c rest) := by
  induction ms generalizing s with
  | nil =>
    obtain rfl : s.inputs = rest := hs
    have h7 : s.bitcnt = 7 := Fin.ext hcount
    exact ⟨s.busOut, s.cond, by rw [← h7]; rfl⟩
  | cons m ms ih =>
    rw [List.length_cons] at hcount
    have h7 : s.bitcnt ≠ 7 := by rintro h; simp [h] at hcount
    have hnext : (s.bitcnt + 1).val = s.bitcnt.val + 1 := Fin.val_add_one_of_lt' (by omega)
    have hstep := (h.step_rxBit hs).trans (execRxBit_early (s := { s with inputs := ms.map .slot ++ rest }) h7 m)
    obtain ⟨o, c, hrun⟩ := ih
      (s := s.shifted (shiftIn s.shreg m) (s.bitcnt + 1) (some ⟨true, m⟩) none (ms.map .slot ++ rest))
      ⟨h.powered, h.phase, h.sub⟩ (by rw [State.shifted, hnext]; omega) rfl
    exact ⟨o, c, (runSteps_succ hstep ms.length).trans hrun⟩

/-- The block with the byte `b` delivered, ready to acknowledge it (R188, R220). -/
def State.delivered (b : Byte) (rest : List Input) (s : State) : State :=
  { s with shreg := b, rxok := true, sub := .ack, bitcnt := 0, busOut := some ⟨true, b.getLsbD 0⟩, cond := none, inputs := rest }

/-- The block with the byte `b` acknowledged, ready for the next one (R189). -/
def State.acknowledged (b : Byte) (rest : List Input) (s : State) : State :=
  { s with shreg := b, rxok := true, sub := .data, bitcnt := 0, busOut := some ⟨false, false⟩, cond := none, inputs := rest }

/-- The eighth slot delivers the byte to the receive callback, which accepts every byte (R188, R220). -/
theorem State.Receiving.step_eighthSlot {s : State} (h : s.Receiving) (x : Byte) (o : Option BusOut) (c : Option Condition)
    (m : Bool) (rest : List Input) :
    step (s.shifted x 7 o c (.slot m :: rest)) = .next ((onReceive (shiftIn x m) s).2.delivered (shiftIn x m) rest) := by
  have hstep := State.Receiving.step_rxBit (s := s.shifted x 7 o c (.slot m :: rest)) ⟨h.powered, h.phase, h.sub⟩ rfl
  have houtputs : putSlot m true (s.shifted x 7 o c rest) = s.shifted x 7 (some ⟨true, m⟩) none rest := putSlot_released m _
  have hdeliver : execRxBit m (s.shifted x 7 o c rest) =
      .next (finishByte (shiftIn x m) (onReceive (shiftIn x m) (s.shifted x 7 (some ⟨true, m⟩) none rest))) := by
    rw [← houtputs]; rfl
  rw [hstep.trans hdeliver, finishByte, onReceive_ok, onReceive_shifted, State.delivered, shiftIn_bit0]
  rfl

/-- The eight data slots of a byte deliver it to the receive callback (R188). -/
theorem State.Receiving.runSteps_byteSlots {s : State} (h : s.Receiving) (hcount : s.bitcnt = 0) {b : Byte} {rest : List Input}
    (hs : s.inputs = byteSlots b ++ rest) : runSteps 8 s = .next ((onReceive b s).2.delivered b rest) := by
  obtain ⟨o, c, hseven⟩ := h.runSteps_rxBits (leadingBits b) (.slot (b.getLsbD 0) :: rest) (by rw [hcount]; rfl) hs
  have heighth := h.step_eighthSlot ((leadingBits b).foldl shiftIn s.shreg) o c (b.getLsbD 0) rest
  have hbyte : shiftIn ((leadingBits b).foldl shiftIn s.shreg) (b.getLsbD 0) = b :=
    List.foldl_append.symm.trans (foldl_shiftIn_byte b s.shreg)
  rw [hbyte] at heighth
  exact (runSteps_add hseven 1).trans (runSteps_one heighth)

/-- The acknowledge slot of a delivered byte (R189). -/
theorem step_delivered {s : State} (hp : s.powered = true) (hphase : s.phase = .receiverMode) (b : Byte) (m : Bool)
    (rest : List Input) : step (s.delivered b (.slot m :: rest)) = .next (s.acknowledged b rest) := by
  have hop : slotOperation m (s.delivered b (.slot m :: rest)) = .rxAck m := by
    simp only [slotOperation, State.delivered, hphase]
  rw [step_of_slot (s := s.delivered b (.slot m :: rest)) hp rfl, hop]
  exact (receivedByteAcknowledged m (s.delivered b rest)).1 rfl

/-- A whole byte with its acknowledge slot: what the receive callback does, and the block is ready for the next byte. -/
theorem State.Receiving.runSteps_byteFrame {s : State} (h : s.Receiving) (hcount : s.bitcnt = 0) {b : Byte} {rest : List Input}
    (hs : s.inputs = byteFrame b ++ rest) : runSteps 9 s = .next ((onReceive b s).2.acknowledged b rest) := by
  rw [byteFrame, List.append_assoc] at hs
  obtain ⟨hp, hphase⟩ := onReceive_place b s
  have hack := step_delivered (hp.trans h.powered) (hphase.trans h.phase) b true rest
  exact (runSteps_add (h.runSteps_byteSlots hcount hs) 1).trans (runSteps_one hack)

/-! ## A write transaction (R96, R221) -/

/-- Several stores read and write the Register File and the leap cache alone. -/
theorem storeAll_withRegisters (o : Byte) (bs : List Byte) (s u : State) :
    storeAll o bs (s.withRegisters u) = s.withRegisters (storeAll o bs u) := by
  induction bs generalizing o u with
  | nil => rfl
  | cons b bs ih => rw [storeAll, memWrite_withRegisters, ih, storeAll]

/-- One offset and then `n` more, modulo 256. -/
theorem offset_add_succ (o : Byte) (n : Nat) : o + 1 + BitVec.ofNat 8 n = o + BitVec.ofNat 8 (n + 1) := by
  rw [Nat.add_comm n, BitVec.ofNat_add, BitVec.add_assoc]
  rfl

/-- The block with the bytes stored in order from the cursor, which ends behind the last (R221). -/
def State.stored (bs : List Byte) (s : State) : State :=
  { s.withRegisters (storeAll s.cursor bs s) with cursor := s.cursor + BitVec.ofNat 8 bs.length }

/-- Storing a byte, acknowledging it, and storing the others. -/
theorem State.stored_cons (b : Byte) (bs : List Byte) (rest : List Input) (s : State) :
    ((s.stored [b]).acknowledged b rest).stored bs = (s.stored (b :: bs)).acknowledged b rest := by
  have hstores : storeAll (s.cursor + 1) bs ((s.stored [b]).acknowledged b rest) =
      ((s.stored [b]).acknowledged b rest).withRegisters (storeAll s.cursor (b :: bs) s) :=
    storeAll_withRegisters (s.cursor + 1) bs ((s.stored [b]).acknowledged b rest) (memWrite s.cursor b s)
  rw [State.stored]
  exact congrArg₂ (fun u c => { State.withRegisters _ u with cursor := c }) hstores (offset_add_succ s.cursor bs.length)

/-- A data byte with its acknowledge slot is stored at the cursor, which advances (R212). -/
theorem State.Receiving.runSteps_dataFrame {s : State} (h : s.Receiving) (hcount : s.bitcnt = 0) (hbyte : s.bytecnt = 1)
    {b : Byte} {rest : List Input} (hs : s.inputs = byteFrame b ++ rest) :
    runSteps 9 s = .next ((s.stored [b]).acknowledged b rest) := by
  rw [h.runSteps_byteFrame hcount hs]
  obtain ⟨h0, _⟩ | ⟨_, hdata⟩ := onReceive_cases b s
  · rw [hbyte] at h0; cases h0
  · rw [hdata, memWrite_eq]; rfl

/-- Data bytes with their acknowledge slots are stored in order from the cursor (R221). -/
theorem State.Receiving.runSteps_dataFrames (bs : List Byte) (rest : List Input) {s : State} (h : s.Receiving)
    (hcount : s.bitcnt = 0) (hbyte : s.bytecnt = 1) (hs : s.inputs = bs.flatMap byteFrame ++ rest) :
    ∃ t, runSteps (9 * bs.length) s = .next t ∧ t = State.withWorkOf { s.stored bs with inputs := rest } t := by
  induction bs generalizing s with
  | nil =>
    obtain rfl : s.inputs = rest := hs
    have hcursor : s.cursor + BitVec.ofNat 8 0 = s.cursor := BitVec.add_zero _
    exact ⟨s, rfl, by rw [State.stored, List.length_nil, hcursor]; rfl⟩
  | cons b bs ih =>
    rw [List.flatMap_cons, List.append_assoc] at hs
    have hfirst := h.runSteps_dataFrame hcount hbyte hs
    obtain ⟨t, hrun, ht⟩ := ih (s := (s.stored [b]).acknowledged b (bs.flatMap byteFrame ++ rest))
      ⟨h.powered, h.phase, rfl⟩ rfl hbyte rfl
    refine ⟨t, ?_, ?_⟩
    · have hlength : 9 * (b :: bs).length = 9 + 9 * bs.length := by rw [List.length_cons]; omega
      rw [hlength, runSteps_add hfirst, hrun]
    · rw [State.stored_cons] at ht
      exact ht

/-- Stores do the same in states with the same Register File and leap cache. -/
theorem storeAll_congr (o : Byte) (bs : List Byte) {s u : State} (hrf : s.rf = u.rf) (hleap : s.isLeap = u.isLeap) :
    (storeAll o bs s).rf = (storeAll o bs u).rf ∧ (storeAll o bs s).isLeap = (storeAll o bs u).isLeap := by
  have hs : s = s.withRegisters u := by rw [State.withRegisters, ← hrf, ← hleap]
  rw [hs, storeAll_withRegisters]
  exact ⟨rfl, rfl⟩

/-- The block addressed for writing with the offset byte `o` acknowledged, ready for data bytes (R211). -/
def State.offsetLoaded (o : Byte) (rest : List Input) (s : State) : State :=
  State.acknowledged o rest { s.writeAddressed rest with cursor := o, bytecnt := 1 }

/-- The byte behind the address loads the cursor (R211). -/
theorem runSteps_offsetFrame {s : State} (hp : s.powered = true) (o : Byte) (rest : List Input) :
    runSteps 9 (s.writeAddressed (byteFrame o ++ rest)) = .next (s.offsetLoaded o rest) :=
  State.Receiving.runSteps_byteFrame (s := s.writeAddressed (byteFrame o ++ rest)) ⟨hp, rfl, rfl⟩ rfl rfl

/-- Settles O26: the address frame makes the block receive, the first byte loads the cursor, the others are stored, and the stop
condition ends the transaction. -/
theorem writeTransactionStoresInOrder : Obligations.WriteTransactionStoresInOrder := fun s o bs rest hp hs => by
  have hsplit : writeTransaction s.ownAddr o bs ++ rest =
      .start :: (byteSlots (addressByte s.ownAddr false) ++
        (.slot true :: (byteFrame o ++ (bs.flatMap byteFrame ++ .stop :: rest)))) := by
    simp [writeTransaction, byteFrame]
  have haddress := runSteps_address hp (hs.trans hsplit)
  have hack := step_addressed_write hp (byteFrame o ++ (bs.flatMap byteFrame ++ .stop :: rest))
  have hoffset := runSteps_offsetFrame hp o (bs.flatMap byteFrame ++ .stop :: rest)
  obtain ⟨t, hdata, ht⟩ := State.Receiving.runSteps_dataFrames bs (.stop :: rest)
    (s := s.offsetLoaded o (bs.flatMap byteFrame ++ .stop :: rest))
    ⟨hp, rfl, rfl⟩ rfl rfl rfl
  have hstop := step_of_stop (s := t) (rest := rest) (by rw [ht]; exact hp) (by rw [ht]; rfl)
  obtain ⟨hrf, hleap⟩ := storeAll_congr o bs (s := s.offsetLoaded o (bs.flatMap byteFrame ++ .stop :: rest)) (u := s) rfl rfl
  have hcount : 20 + 9 * bs.length = 9 + (9 + (9 * bs.length + 1) + 1) := by omega
  have hrun := calc
    runSteps (20 + 9 * bs.length) s = runSteps (9 + (9 * bs.length + 1) + 1) _ := by rw [hcount, runSteps_add haddress]
    _ = runSteps (9 + (9 * bs.length + 1)) _ := runSteps_succ hack _
    _ = runSteps (9 * bs.length + 1) _ := runSteps_add hoffset _
    _ = runSteps 1 t := runSteps_add hdata 1
    _ = _ := runSteps_one hstop
  refine ⟨_, hrun, ?_⟩
  rw [ht]
  exact ⟨rfl, rfl, rfl, rfl, hrf, hleap, rfl, rfl, rfl, rfl, rfl⟩

/-! ## A read transaction (R97, R222) -/

/-- The block in the acknowledge slot of a byte that it has sent. -/
structure State.AwaitingAck (s : State) : Prop where
  powered : s.powered = true
  phase : s.phase = .transmitterMode
  sub : s.sub = .ack

/-- Eight slots in which the master releases the line send a byte. -/
theorem State.Sending.runSteps_releasedSlots {s : State} (h : s.Sending) (hcount : s.bitcnt = 0) {rest : List Input}
    (hs : s.inputs = List.replicate 8 (.slot true) ++ rest) :
    ∃ t, runSteps 8 s = .next t ∧ t.AwaitingAck ∧ t = State.withWorkOf { s with inputs := rest } t := by
  have hsend := h.runSteps_txBits (List.replicate 7 true) true rest 7 (by rw [hcount]; rfl) hs
  exact ⟨_, hsend, ⟨h.powered, h.phase, rfl⟩, rfl⟩

/-- The master's acknowledge fetches the next byte and the block sends it (R191). -/
theorem State.AwaitingAck.step_txMack {s : State} (h : s.AwaitingAck) {rest : List Input} (hs : s.inputs = .slot false :: rest) :
    ∃ t, step s = .next t ∧ t.Sending ∧ t.bitcnt = 0
      ∧ t = State.withWorkOf { s with cursor := s.cursor + 1, draws := t.draws, inputs := rest } t := by
  have hop : slotOperation false s = .txMack := by rw [slotOperation, h.phase, h.sub]; rfl
  have hstep : step s = .next (fetchByte (putSlot false true { s with inputs := rest })) := by
    rw [step_of_slot h.powered hs, hop]; rfl
  rw [fetchByte_eq] at hstep
  exact ⟨_, hstep, ⟨h.powered, h.phase, rfl⟩, rfl, rfl⟩

/-- The master's not-acknowledge ends the sending (R191). -/
theorem State.AwaitingAck.step_txMnack {s : State} (h : s.AwaitingAck) {rest : List Input} (hs : s.inputs = .slot true :: rest) :
    step s = .next { s with phase := .idle, busOut := some ⟨true, true⟩, cond := none, inputs := rest } := by
  have hop : slotOperation true s = .txMnack := by rw [slotOperation, h.phase, h.sub]; rfl
  rw [step_of_slot h.powered hs, hop]
  rfl

/-- A byte read with the master's acknowledge advances the cursor, and the next byte is sent. -/
theorem State.Sending.runSteps_readFrame {s : State} (h : s.Sending) (hcount : s.bitcnt = 0) {rest : List Input}
    (hs : s.inputs = readFrame true ++ rest) :
    ∃ t, runSteps 9 s = .next t ∧ t.Sending ∧ t.bitcnt = 0
      ∧ t = State.withWorkOf { s with cursor := s.cursor + 1, draws := t.draws, inputs := rest } t := by
  rw [readFrame, List.append_assoc] at hs
  obtain ⟨u, hsend, hwait, hu⟩ := h.runSteps_releasedSlots hcount hs
  obtain ⟨t, hack, hsending, hzero, ht⟩ := hwait.step_txMack (rest := rest) (by rw [hu]; rfl)
  refine ⟨t, (runSteps_add hsend 1).trans (runSteps_one hack), hsending, hzero, ?_⟩
  rw [hu] at ht
  exact ht

/-- Several bytes read with the master's acknowledge. -/
theorem State.Sending.runSteps_readFrames (n : Nat) (rest : List Input) {s : State} (h : s.Sending) (hcount : s.bitcnt = 0)
    (hs : s.inputs = (List.replicate n (readFrame true)).flatten ++ rest) :
    ∃ t, runSteps (9 * n) s = .next t ∧ t.Sending ∧ t.bitcnt = 0
      ∧ t = State.withWorkOf { s with cursor := s.cursor + BitVec.ofNat 8 n, draws := t.draws, inputs := rest } t := by
  induction n generalizing s with
  | zero =>
    obtain rfl : s.inputs = rest := hs
    have hcursor : s.cursor + BitVec.ofNat 8 0 = s.cursor := BitVec.add_zero _
    exact ⟨s, rfl, h, hcount, by rw [hcursor]; rfl⟩
  | succ n ih =>
    rw [List.replicate_succ, List.flatten_cons, List.append_assoc] at hs
    obtain ⟨u, hfirst, hsending, hzero, hu⟩ := h.runSteps_readFrame hcount hs
    obtain ⟨t, hrun, hsends, hstart, ht⟩ := ih hsending hzero (by rw [hu]; rfl)
    have hlength : 9 * (n + 1) = 9 + 9 * n := by omega
    refine ⟨t, by rw [hlength, runSteps_add hfirst, hrun], hsends, hstart, ?_⟩
    rw [hu] at ht
    rw [← offset_add_succ]
    exact ht

/-- The last byte read, with the master's not-acknowledge, and the stop condition. -/
theorem State.Sending.runSteps_lastFrame {s : State} (h : s.Sending) (hcount : s.bitcnt = 0) {rest : List Input}
    (hs : s.inputs = readFrame false ++ .stop :: rest) :
    ∃ t, runSteps 10 s = .next t ∧ t.phase = .idle ∧ t = State.withWorkOf { s with inputs := rest } t := by
  rw [readFrame, List.append_assoc] at hs
  obtain ⟨u, hsend, hwait, hu⟩ := h.runSteps_releasedSlots hcount hs
  have hnack := hwait.step_txMnack (rest := .stop :: rest) (by rw [hu]; rfl)
  have hstop := step_of_stop (rest := rest)
    (s := { u with phase := .idle, busOut := some ⟨true, true⟩, cond := none, inputs := .stop :: rest }) hwait.powered rfl
  refine ⟨_, (runSteps_add hsend 2).trans ((runSteps_succ hnack 1).trans (runSteps_one hstop)), rfl, ?_⟩
  rw [hu]
  rfl

/-- The address frame of a read makes the block send the byte at the cursor, which advances (R187). -/
theorem runSteps_readAddress {s : State} {rest : List Input} (hp : s.powered = true)
    (hs : s.inputs = .start :: (byteFrame (addressByte s.ownAddr true) ++ rest)) :
    ∃ t, runSteps 10 s = .next t ∧ t.Sending ∧ t.bitcnt = 0
      ∧ t = State.withWorkOf { s with cursor := s.cursor + 1, bytecnt := 0, draws := t.draws, inputs := rest } t := by
  rw [byteFrame, List.append_assoc] at hs
  have hack := step_addressed_read hp rest
  rw [fetchByte_eq] at hack
  exact ⟨_, (runSteps_add (runSteps_address hp hs) 1).trans (runSteps_one hack), ⟨hp, rfl, rfl⟩, rfl, rfl⟩

/-- Settles O27: the address frame and each acknowledged byte fetch the next byte, and the last byte fetches none. -/
theorem readTransactionAdvancesCursor : Obligations.ReadTransactionAdvancesCursor := fun s n rest hp hs => by
  have hsplit : readTransaction s.ownAddr n ++ rest =
      .start :: (byteFrame (addressByte s.ownAddr true) ++
        ((List.replicate n (readFrame true)).flatten ++ (readFrame false ++ .stop :: rest))) := by
    simp [readTransaction]
  obtain ⟨u, haddress, hsending, hzero, hu⟩ := runSteps_readAddress hp (hs.trans hsplit)
  obtain ⟨v, hbytes, hsends, hstart, hv⟩ := hsending.runSteps_readFrames n (readFrame false ++ .stop :: rest) hzero
    (by rw [hu]; rfl)
  obtain ⟨t, hlast, hidle, ht⟩ := hsends.runSteps_lastFrame (rest := rest) hstart (by rw [hv]; rfl)
  have hcount : 20 + 9 * n = 10 + (9 * n + 10) := by omega
  have hrun := calc
    runSteps (20 + 9 * n) s = runSteps (9 * n + 10) u := by rw [hcount, runSteps_add haddress]
    _ = runSteps 10 v := runSteps_add hbytes 10
    _ = .next t := hlast
  rw [hu] at hv
  rw [hv] at ht
  refine ⟨t, hrun, ?_⟩
  rw [ht, ← offset_add_succ]
  exact ⟨rfl, hidle, rfl, rfl, rfl, rfl, rfl, rfl, rfl, rfl⟩

end Sys2Proof.Machine
end

section
/-!
PROOFS. The conditions and what the parts of the block keep from each other (60_exceptions.md R231, R248, R249, R253): an address
mismatch, the frame of the tick and the engines, and the state that the bus cannot read.
-/

namespace Sys2Proof.Machine

/-! ## An address mismatch (R187, R231) -/

/-- Settles O15: aborting adds the phase and the label to the released line. -/
theorem mismatchReturnsToIdle : Obligations.MismatchReturnsToIdle := fun _ _ k s =>
  congrArg (fun u => Host.Outcome.next (abort .addressMismatch u)) (putSlot_released k s)

/-! ## The frame of the tick and the engines (R248, R249) -/

/-- What the tick and the engines leave alone: the bus engine and the model's own fields but the count of draws, and the offsets
from 8 on except the flags. -/
structure EngineFrame (s t : State) : Prop where
  state : t = { s with rf := t.rf, isLeap := t.isLeap, tick := t.tick, pend := t.pend, out := t.out, draws := t.draws }
  offsets : ∀ a : Byte, 8 ≤ a.toNat → a ≠ 30 → t.peek a = s.peek a

/-- An engine operation stays in the frame, also after the draw by which a `DRAIN` may have picked it (R166). -/
theorem engineFrame_runAction (x : PendAction) (n : Nat) (s : State) : EngineFrame s (runAction x { s with draws := n }) := by
  cases x with
  | advance => exact ⟨by rw [runAction, advance_eq], fun _ h8 _ => advance_peek _ h8⟩
  | check => exact ⟨rfl, fun _ _ hne => checkAlarms_peek_ne _ hne⟩
  | assert | reset => exact ⟨rfl, fun _ _ _ => rfl⟩

/-- Clearing a pending flag afterwards stays in the frame. -/
theorem EngineFrame.clearPend {s t : State} (h : EngineFrame s t) (x : PendAction) : EngineFrame s (clearPend x t) where
  state := congrArg (Machine.clearPend x) h.state
  offsets := h.offsets

/-- `DRAIN` stays in the frame: it serves one action or does nothing. -/
theorem engineFrame_drain {c a r p : Bool} {s t : State} (h : exec (.drain c a r p) s = .next t) : EngineFrame s t := by
  obtain rfl | ⟨x, n, _, rfl⟩ := execDrain_cases h
  · exact ⟨rfl, fun _ _ _ => rfl⟩
  · exact (engineFrame_runAction x n s).clearPend x

/-- An engine operation on its own stays in the frame. -/
theorem engineFrame_action {x : PendAction} {s t : State} (h : exec x.instr s = .next t) : EngineFrame s t := by
  cases (exec_actionInstr x s).symm.trans h
  exact engineFrame_runAction x s.draws s

/-- Every operation that is neither a bus operation nor `RESET` stays in the frame. -/
theorem exec_engineFrame {i : Instr} {s t : State} (hbus : i.isBus = false) (hreset : ∀ v, i ≠ .reset v)
    (h : exec i s = .next t) : EngineFrame s t := by
  cases i with
  | tick => cases h; exact ⟨rfl, fun _ _ _ => rfl⟩
  | drain => exact engineFrame_drain h
  | driveInterrupts => exact engineFrame_action (x := .assert) h
  | resetInterrupts => exact engineFrame_action (x := .reset) h
  | advance => exact engineFrame_action (x := .advance) h
  | checkAlarms => exact engineFrame_action (x := .check) h
  | reset v => exact absurd rfl (hreset v)
  | start | stop | slotIdle | slotAddr | addrAckW | addrAckR | addrNack | rxBit | rxOffset | rxData | rxAck | txBit | txMack
  | txMnack => cases hbus

/-- Settles O30. -/
theorem engineOperationFrame : Obligations.EngineOperationFrame := fun _ _ _ hbus hreset h =>
  have hframe := exec_engineFrame hbus hreset h
  ⟨hframe.state, hframe.offsets⟩

/-! ## What the bus cannot read (R248, R253) -/

/-- The state with the leap cache, the tick counter, the pending flags and the output lines blanked. -/
def State.visible (s : State) : State :=
  { s with isLeap := false, tick := 0, pend := ⟨false, false, false, false⟩, out := ⟨false, false, Vector.replicate 6 false⟩ }

/-- Two states look the same from the bus when they agree after the blanking. -/
theorem sameOnBus_iff (s t : State) : SameOnBus s t ↔ s.visible = t.visible := by
  simp only [State.visible, State.mk.injEq, true_and]
  constructor
  · rintro ⟨hrf, hphase, hsub, hbitcnt, hshreg, hrxok, hcursor, hown, hbytecnt, hbusOut, hcond, hdraws, hpowered, hinputs⟩
    exact ⟨hrf, hphase, hsub, hbitcnt, hshreg, hrxok, hcursor, hown, hbytecnt, hbusOut, hcond, hdraws, hpowered, hinputs⟩
  · rintro ⟨hrf, hphase, hsub, hbitcnt, hshreg, hrxok, hcursor, hown, hbytecnt, hbusOut, hcond, hdraws, hpowered, hinputs⟩
    exact ⟨hrf, hphase, hsub, hbitcnt, hshreg, hrxok, hcursor, hown, hbytecnt, hbusOut, hcond, hdraws, hpowered, hinputs⟩

/-- What a store leaves in the Register File depends on the Register File alone (R213 to R216). -/
theorem memWrite_rf_congr {s u : State} (h : s.rf = u.rf) (o b : Byte) : (memWrite o b s).rf = (memWrite o b u).rf := by
  have hpoke (a v : Byte) : (s.poke a v).rf = (u.poke a v).rf := by
    unfold State.poke
    split
    · rw [h]
    · exact h
  obtain ⟨hs, hw⟩ | ⟨rfl, hw⟩ | ⟨hs, h30, hw⟩ := memWrite_cases o b s
  · rw [hw, memWrite_of_storable hs, yearWriteHook_rf, yearWriteHook_rf, hpoke]
  · simp only [hw, memWrite_flagsOffset, hpoke, h]
  · rw [hw, memWrite_of_discarded hs h30, h]

/-- What is fetched does not depend on the blanked fields. -/
theorem fetchByte_visible (s : State) : fetchByte s.visible = (fetchByte s).visible := by
  by_cases h : s.cursor.toNat < 31
  · rw [fetchByte_of_lt h, fetchByte_of_lt (s := s.visible) h]; rfl
  · rw [fetchByte_of_ge (Nat.not_lt.mp h), fetchByte_of_ge (s := s.visible) (Nat.not_lt.mp h)]; rfl

/-- `RX.DATA` does the same to the visible state whatever the blanked fields were: the hook's leap cache is blanked too (R217). -/
theorem execRxData_visible (d : Byte) (s : State) :
    mapNext State.visible (execRxData d s.visible) = mapNext State.visible (execRxData d s) := by
  rw [execRxData_eq, execRxData_eq, memWrite_eq _ _ s.visible, memWrite_eq _ _ s, memWrite_rf_congr (s := s.visible) (u := s) rfl]
  rfl

/-- A received bit does the same to the visible state: an early bit, the eighth of the offset byte, the eighth of a data byte. -/
theorem execRxBit_visible (m : Bool) (s : State) :
    mapNext State.visible (execRxBit m s.visible) = mapNext State.visible (execRxBit m s) := by
  by_cases h7 : s.bitcnt = 7
  · by_cases h0 : s.bytecnt = 0
    · rw [execRxBit_eighth_offset m s h7 h0, execRxBit_eighth_offset m s.visible h7 h0]; rfl
    · rw [execRxBit_eighth_data m s h7 h0, execRxBit_eighth_data m s.visible h7 h0]
      exact execRxData_visible (shiftIn s.shreg m) s
  · rw [execRxBit_early h7, execRxBit_early (s := s.visible) h7]; rfl

/-- Every bus operation does the same to the visible state whatever the blanked fields were. -/
theorem exec_visible {i : Instr} (hbus : i.isBus = true) (s : State) :
    mapNext State.visible (exec i s.visible) = mapNext State.visible (exec i s) := by
  cases i with
  | start => rw [startBeginsAddressPhase, startBeginsAddressPhase]; rfl
  | slotAddr a d =>
    show mapNext _ (execSlotAddr a d s.visible) = mapNext _ (execSlotAddr a d s)
    by_cases h7 : s.bitcnt = 7
    · rw [execSlotAddr_eighth h7, execSlotAddr_eighth (s := s.visible) h7]; rfl
    · rw [execSlotAddr_early h7, execSlotAddr_early (s := s.visible) h7]; rfl
  | addrAckR a k =>
    show mapNext _ (execAddrAckR a k s.visible) = mapNext _ (execAddrAckR a k s)
    rw [execAddrAckR, execAddrAckR, fetchByte_putSlot, fetchByte_putSlot, fetchByte_visible]; rfl
  | txMack =>
    show mapNext _ (execTxMack s.visible) = mapNext _ (execTxMack s)
    rw [execTxMack, execTxMack, fetchByte_putSlot, fetchByte_putSlot, fetchByte_visible]; rfl
  | rxBit m => exact execRxBit_visible m s
  | rxData d => exact execRxData_visible d s
  | rxAck k =>
    cases h : s.rxok
    · rw [(receivedByteAcknowledged k s).2 h, (receivedByteAcknowledged k s.visible).2 h]; rfl
    · rw [(receivedByteAcknowledged k s).1 h, (receivedByteAcknowledged k s.visible).1 h]; rfl
  | txBit m =>
    show mapNext _ (execTxBit m s.visible) = mapNext _ (execTxBit m s)
    rw [execTxBit_eq, execTxBit_eq]; rfl
  | stop | slotIdle | addrAckW | addrNack | rxOffset | txMnack => rfl
  | tick | drain | driveInterrupts | resetInterrupts | advance | checkAlarms | reset => cases hbus

/-- Settles O31: the visible state after a bus operation is a function of the visible state before it. -/
theorem hiddenStateInvisibleOnBus : Obligations.HiddenStateInvisibleOnBus := fun i s s' t t' hbus hs h h' => by
  have hvisible : Host.Outcome.next (φ := Fault) (ρ := Refusal) t.visible = .next t'.visible := calc
    .next t.visible = mapNext State.visible (exec i s) := by rw [h]; rfl
    _ = mapNext State.visible (exec i s.visible) := (exec_visible hbus s).symm
    _ = mapNext State.visible (exec i s'.visible) := by rw [(sameOnBus_iff s s').mp hs]
    _ = mapNext State.visible (exec i s') := exec_visible hbus s'
    _ = .next t'.visible := by rw [h']; rfl
  exact (sameOnBus_iff t t').mpr (Host.Outcome.next.inj hvisible)

end Sys2Proof.Machine
end

section
/-!
PROOFS. Power-up and the other events (R260, log 16): which of them enable an operation, and the step that follows.
-/

namespace Sys2Proof.Machine

/-! ## What power-up enables (R260) -/

/-- With power-up not complete no other event enables an operation. -/
theorem operationOf_unpowered {e : Input} {s : State} (hp : s.powered = false) (he : ∀ v, e ≠ .powerUp v) :
    operationOf e s = none := by
  cases e with
  | powerUp v => exact absurd rfl (he v)
  | drain choice => cases choice <;> simp [operationOf, hp]
  | start | stop | slot | tick => simp [operationOf, hp]

/-- With power-up not complete the power-up event enables `RESET` with its strap. -/
theorem operationOf_powerUp_unpowered {s : State} (hp : s.powered = false) (v : Bool) :
    operationOf (.powerUp v) s = some (.reset v) := by simp [operationOf, hp]

/-- A running block takes no second power-up. -/
theorem operationOf_powerUp_powered {s : State} (hp : s.powered = true) (v : Bool) : operationOf (.powerUp v) s = none := if_pos hp

/-- The step adds nothing to `RESET`: it is no engine operation. -/
theorem afterExec_reset (v : Bool) (s : State) : afterExec (.reset v) s = s := afterExec_of_none rfl s

/-- The power-up of a block that is not running runs `RESET`, and nothing more. -/
theorem stepInput_powerUp_unpowered {s : State} (hp : s.powered = false) (v : Bool) :
    stepInput (.powerUp v) s = exec (.reset v) s := by
  obtain ⟨t, ht⟩ := exec_completes (.reset v) s
  rw [stepInput_of_operation (operationOf_powerUp_unpowered hp v), ht, mapNext_next, afterExec_reset]

/-- Settles O58: the event enables nothing and is used up, except the power-up of a block that is not running, which enables
`RESET`. -/
theorem eventsLostBeforePowerUp : Obligations.EventsLostBeforePowerUp := by
  intro s e rest hin
  rw [step_of_cons hin]
  refine ⟨?other, ?powerUp, ?second⟩
  case other => exact fun hp he => stepInput_of_noOperation (operationOf_unpowered hp he)
  case powerUp =>
    rintro hp v rfl
    exact stepInput_powerUp_unpowered (s := { s with inputs := rest }) hp v
  case second =>
    rintro hp v rfl
    exact stepInput_of_noOperation (operationOf_powerUp_powered hp v)

end Sys2Proof.Machine
end
